-- ==== Sys2Proof/Word.lean ====
section
/-! DEFINITION. The two word types of the host port and the buffer file. -/

namespace Sys2Proof

/-- One entry of a buffer, a matrix or a mask: an unsigned 8-bit value (00_scope.md R9). -/
abbrev Byte := BitVec 8

/-- A register, an address or a command word of the host port, 32 bits (00_scope.md R10). -/
abbrev Word := BitVec 32

end Sys2Proof
end

