-- ==== Sys2Proof/Config.lean ====
section
/-! DEFINITION. What an implementation fixes (NMAX, NBUF, LOGBUF) and the free values the spec leaves open. -/

namespace Sys2Proof

/-- The three parameters of the HCC (00_scope.md R8). They are fixed at run time: State holds them in
a field that no step changes, so that a statement about every state is about every configuration
(log entry 1). -/
structure Config where
  /-- NMAX: the largest legal block size. -/
  nmax : Nat
  /-- NBUF: the number of buffers in the buffer file. -/
  nbuf : Nat
  /-- LOGBUF: log2 of the byte capacity of one buffer. -/
  logbuf : Nat
  deriving DecidableEq, Repr

/-- The reference configuration of 00_scope.md R8. -/
def Config.reference : Config := ⟨8, 16, 20⟩

/-- The ranges 00_scope.md R8 gives the parameters. -/
abbrev Config.Legal (c : Config) : Prop :=
  1 ≤ c.nmax ∧ c.nmax ≤ 255 ∧ 1 ≤ c.nbuf ∧ c.nbuf ≤ 16 ∧ c.logbuf ≤ 20

/-- BUF_BYTES = 2^LOGBUF (00_scope.md R8). -/
def Config.bufBytes (c : Config) : Nat := 2 ^ c.logbuf

/-- The free value of U1 (10_state.md R56, 20_memory.md R89): what a byte that nothing has written since
power-on reads as, in a given step and at a given address. No body is visible: nothing fixes it
(log entry 5). -/
opaque Config.unwrittenByte (moment address : Nat) : Byte

/-- The free value of U2 (20_memory.md R89): what a host read of the buffer window returns for a byte
while BUSY = 1, in a given step and at a given address (log entry 6). -/
opaque Config.busyByte (moment address : Nat) : Byte

/-- The free value of U3 (10_state.md R52): the byte the Entropy source answers to its k-th Draw() when
no answer is supplied in State (log entry 4). -/
opaque Config.drawnByte (k : Nat) : Byte

/-- The free value of U10 (70_reset_and_hazards.md R370): how many Host steps may come before the Core's next
step, drawn anew in each step after which the Core waits afresh. It is finite, which is the weak fairness R370
assumes, and nothing else about it is fixed (log entry 3). -/
opaque Config.coreDelay (moment : Nat) : Nat

end Sys2Proof
end

