-- ==== Sys2Proof/Syntax.lean ====
section
/-! DEFINITION. The commands of the HCC: one constructor per row of the opcode table. -/

namespace Sys2Proof

/-- The commands of 30_encoding.md R125. A buffer operand is the index of a buffer (R122); `d` is the
destination, `a` and `b` the sources (R121), `c` the `complex` flag (R123). -/
inductive Instr where
  /-- NOP, 40_command_common.md R170. -/
  | nop
  /-- MMUL bD, bA, bB, 43_block_multiply.md R241. -/
  | mmul (d a b : Nat)
  /-- DET bA, 41_invertibility.md R194. -/
  | det (a : Nat)
  /-- INVKEY bD, bA and INVKEY.C bD, bA, 45_inverter.md R284. -/
  | invkey (d a : Nat) (c : Bool)
  /-- GENKEY bD and GENKEY.C bD, 42_key_tiler.md R216. -/
  | genkey (d : Nat) (c : Bool)
  /-- TILEKEY bD, bA, 42_key_tiler.md R220. -/
  | tilekey (d a : Nat)
  /-- RAND bD, 44_mask.md R261. -/
  | rand (d : Nat)
  /-- XOR bD, bA, bB, 44_mask.md R263. -/
  | xor (d a b : Nat)
  deriving DecidableEq, Repr

end Sys2Proof
end

