-- ==== Sys2Proof/WellFormed.lean ====
section
/-! DEFINITION. When a command term can be written as a command word. -/

namespace Sys2Proof

/-- A buffer index fits its 4-bit field (30_encoding.md R122). An index ≥ NBUF is well formed: it is
rejected at validation, not in the encoding. -/
abbrev IndexFits (b : Nat) : Prop := b < 16

/-- Every operand of the command fits its field (30_encoding.md R121, R122). -/
def Instr.WellFormed : Instr → Bool
  | .nop => true
  | .mmul d a b => decide (IndexFits d ∧ IndexFits a ∧ IndexFits b)
  | .det a => decide (IndexFits a)
  | .invkey d a _ => decide (IndexFits d ∧ IndexFits a)
  | .genkey d _ => decide (IndexFits d)
  | .tilekey d a => decide (IndexFits d ∧ IndexFits a)
  | .rand d => decide (IndexFits d)
  | .xor d a b => decide (IndexFits d ∧ IndexFits a ∧ IndexFits b)

end Sys2Proof
end

