-- ==== Sys2Proof/Decode.lean ====
section
/-! DEFINITION. The command word: its fields, the decoder, the encoder, the opcode table and the assembly spelling. -/

namespace Sys2Proof

/-- Why a word is ILLEGAL (30_encoding.md R127). All three complete with ILLEGAL_CMD (60_exceptions.md R321). -/
inductive DecodeError where
  /-- An OP value 0x08 to 0xFF. -/
  | reservedOpcode
  /-- A nonzero RSV field. -/
  | reservedBits
  /-- A nonzero field that the row marks unused. -/
  | unusedField
  deriving DecidableEq, Repr

/-- OP = bits [7:0] (30_encoding.md R121). -/
def opField (w : Word) : BitVec 8 := w.extractLsb' 0 8
/-- D = bits [11:8], the destination buffer index. -/
def dField (w : Word) : BitVec 4 := w.extractLsb' 8 4
/-- A = bits [15:12], the first source buffer index. -/
def aField (w : Word) : BitVec 4 := w.extractLsb' 12 4
/-- B = bits [19:16], the second source buffer index. -/
def bField (w : Word) : BitVec 4 := w.extractLsb' 16 4
/-- C = bit [20], the `complex` flag. -/
def cField (w : Word) : Bool := w.getLsbD 20
/-- RSV = bits [31:21], which must be 0. -/
def rsvField (w : Word) : BitVec 11 := w.extractLsb' 21 11

/-- The command if the fields its row does not use are 0 (30_encoding.md R125, R127). -/
def whenUnused (unused : Bool) (i : Instr) : Except DecodeError Instr :=
  if unused then .ok i else .error .unusedField

/-- The decoder, total on 32-bit words (30_encoding.md R126): the row of R125, or why the word is ILLEGAL. -/
def decode (w : Word) : Except DecodeError Instr :=
  let d := (dField w).toNat
  let a := (aField w).toNat
  let b := (bField w).toNat
  let c := cField w
  if rsvField w ≠ 0 then .error .reservedBits
  else
    match (opField w).toNat with
    | 0x00 => whenUnused (d == 0 && a == 0 && b == 0 && !c) .nop
    | 0x01 => whenUnused (!c) (.mmul d a b)
    | 0x02 => whenUnused (d == 0 && b == 0 && !c) (.det a)
    | 0x03 => whenUnused (b == 0) (.invkey d a c)
    | 0x04 => whenUnused (a == 0 && b == 0) (.genkey d c)
    | 0x05 => whenUnused (b == 0 && !c) (.tilekey d a)
    | 0x06 => whenUnused (a == 0 && b == 0 && !c) (.rand d)
    | 0x07 => whenUnused (!c) (.xor d a b)
    | _ => .error .reservedOpcode

/-- The word with the given fields, most significant first `RRRRRRRRRRR C BBBB AAAA DDDD OOOOOOOO`
(30_encoding.md R121), RSV = 0. -/
def assemble (op d a b : Nat) (c : Bool) : Word :=
  0#11 ++ BitVec.ofBool c ++ BitVec.ofNat 4 b ++ BitVec.ofNat 4 a ++ BitVec.ofNat 4 d ++ BitVec.ofNat 8 op

/-- The encoder: the word of a well-formed command, every unlisted field 0 (30_encoding.md R125, R129). -/
def encode : Instr → Word
  | .nop => assemble 0x00 0 0 0 false
  | .mmul d a b => assemble 0x01 d a b false
  | .det a => assemble 0x02 0 a 0 false
  | .invkey d a c => assemble 0x03 d a 0 c
  | .genkey d c => assemble 0x04 d 0 0 c
  | .tilekey d a => assemble 0x05 d a 0 false
  | .rand d => assemble 0x06 d 0 0 false
  | .xor d a b => assemble 0x07 d a b false

/-- The `match` value of the command's row (30_encoding.md R125). -/
def Instr.matchWord : Instr → Word
  | .nop => 0x00000000
  | .mmul _ _ _ => 0x00000001
  | .det _ => 0x00000002
  | .invkey _ _ _ => 0x00000003
  | .genkey _ _ => 0x00000004
  | .tilekey _ _ => 0x00000005
  | .rand _ => 0x00000006
  | .xor _ _ _ => 0x00000007

/-- The `mask` value of the command's row (30_encoding.md R125). -/
def Instr.maskWord : Instr → Word
  | .nop => 0xFFFFFFFF
  | .mmul _ _ _ => 0xFFF000FF
  | .det _ => 0xFFFF0FFF
  | .invkey _ _ _ => 0xFFEF00FF
  | .genkey _ _ => 0xFFEFF0FF
  | .tilekey _ _ => 0xFFFF00FF
  | .rand _ => 0xFFFFF0FF
  | .xor _ _ _ => 0xFFF000FF

/-- The opcode table of 30_encoding.md R125: each row's (match, mask). -/
def opcodeTable : List (Word × Word) :=
  [ (0x00000000, 0xFFFFFFFF), (0x00000001, 0xFFF000FF), (0x00000002, 0xFFFF0FFF),
    (0x00000003, 0xFFEF00FF), (0x00000004, 0xFFEFF0FF), (0x00000005, 0xFFFF00FF),
    (0x00000006, 0xFFFFF0FF), (0x00000007, 0xFFF000FF) ]

/-- A buffer operand's spelling, `b0` to `b15` (30_encoding.md R129). -/
def bufferName (b : Nat) : String := "b" ++ toString b

/-- The command's spelling in the assembly syntax of 30_encoding.md R123 and R129. -/
def Instr.assembly : Instr → String
  | .nop => "NOP"
  | .mmul d a b => "MMUL " ++ bufferName d ++ ", " ++ bufferName a ++ ", " ++ bufferName b
  | .det a => "DET " ++ bufferName a
  | .invkey d a c => (if c then "INVKEY.C " else "INVKEY ") ++ bufferName d ++ ", " ++ bufferName a
  | .genkey d c => (if c then "GENKEY.C " else "GENKEY ") ++ bufferName d
  | .tilekey d a => "TILEKEY " ++ bufferName d ++ ", " ++ bufferName a
  | .rand d => "RAND " ++ bufferName d
  | .xor d a b => "XOR " ++ bufferName d ++ ", " ++ bufferName a ++ ", " ++ bufferName b

/-- What the decoder reads from a word numbered as the opcode table numbers it. A command is always one
32-bit word (30_encoding.md R120, R128): the bits above `nbits` are 0, and a longer word is no command. -/
def decodeTableWord (nbits w : Nat) : Option Instr :=
  if nbits ≤ 32 then
    match decode (BitVec.ofNat 32 (w % 2 ^ nbits)) with
    | .ok i => some i
    | .error _ => none
  else none

end Sys2Proof
end

