-- ==== Sys2Proof/Machine/State.lean ====
section
/-! DEFINITION. The state of the HCC as plain data, the reasons a step can stop, and the state after reset. -/

namespace Sys2Proof.Machine

/-- PHASE of the Core sequencer (10_state.md R50). STATUS.BUSY = 1 exactly when it is `busy`. -/
inductive Phase where
  | idle
  | busy
  deriving DecidableEq, Repr

/-- The error codes of 60_exceptions.md R320, in code order 0 to 8. Codes 9 to 15 are never produced (U5). -/
inductive ErrCode where
  /-- Code 0, NONE. -/
  | none
  /-- Code 1, ILLEGAL_CMD. -/
  | illegalCmd
  /-- Code 2, BAD_BUFFER. -/
  | badBuffer
  /-- Code 3, BAD_BLOCK. -/
  | badBlock
  /-- Code 4, UNWRITTEN. -/
  | unwritten
  /-- Code 5, DIM_MISMATCH. -/
  | dimMismatch
  /-- Code 6, BAD_TILE. -/
  | badTile
  /-- Code 7, NON_INVERTIBLE. -/
  | nonInvertible
  /-- Code 8, GEN_EXHAUSTED. -/
  | genExhausted
  deriving DecidableEq, Repr

/-- The two agents whose steps interleave (00_scope.md R4). -/
inductive Agent where
  | host
  | core
  deriving DecidableEq, Repr

/-- The size of a host transaction: 1, 2 or 4 bytes (00_scope.md R10, R17). -/
inductive AccessSize where
  | byte
  | half
  | word
  deriving DecidableEq, Repr

/-- What the outside does to the HCC next: a transaction of the Host (00_scope.md R17), its WAIT loop
(30_encoding.md R130), or a level of the power-on reset input (70_reset_and_hazards.md R360). -/
inductive HostOp where
  /-- MemRead(addr, s). -/
  | read (addr : Word) (size : AccessSize)
  /-- MemWrite(addr, s, v); the low s bytes of `v` are the data. -/
  | write (addr : Word) (size : AccessSize) (v : Word)
  /-- WAIT: read STATUS until its BUSY bit is 0. -/
  | wait
  /-- The reset input is driven to this level. -/
  | rst (level : Bool)
  deriving DecidableEq, Repr

/-- The answer to a host transaction (00_scope.md R17, 20_memory.md R86). -/
inductive Response where
  /-- A write that completed, or was ignored or dropped, without bus error. -/
  | ok
  /-- A read's data, in the low s bytes, the rest 0. -/
  | data (v : Word)
  /-- The error response; a read that gets it returns no data. -/
  | busError
  deriving DecidableEq, Repr

/-- The progress of a running GENKEY (10_state.md R50, 42_key_tiler.md R216). -/
structure GenProgress where
  /-- The index, in block order, of the tile being generated. -/
  tile : Nat
  /-- `k`: the attempts made for that tile. -/
  attempts : Nat
  /-- `total`: the attempts of the whole command, 32 bits, saturating. -/
  total : Word
  /-- The sub-keys generated so far, in block order, each as its n² bytes in row-major order. -/
  subkeys : List (List Byte)
  deriving DecidableEq, Repr

/-- The staged result of a command (10_state.md R50, 40_command_common.md R167). -/
structure Staged where
  /-- The destination buffer. -/
  dst : Nat
  /-- What DIM[dst] becomes. -/
  dim : Word
  /-- The grid bytes, in offset order from 0. -/
  bytes : List Byte
  deriving DecidableEq, Repr

/-- The buffer file's bytes, each under its host port address (20_memory.md R81). Canonical form: addresses
strictly rising. An unlisted byte is one never written since power-on reset and has no value of its
own (10_state.md R56, log entry 5). -/
abbrev Memory := List Host.Cell

/-- Everything the spec gives the machine (10_state.md R30). -/
structure State where
  /-- NMAX, NBUF and LOGBUF (00_scope.md R8). -/
  cfg : Config
  /-- BUF (10_state.md R45). -/
  mem : Memory
  /-- DIM[0..15] (10_state.md R44). -/
  dims : Vector Word 16
  /-- VALID[15:0] (10_state.md R43). -/
  valid : BitVec 16
  /-- CTRL.IE (10_state.md R35). -/
  ie : Bool
  /-- CTRL.RNGZERO (10_state.md R35). -/
  rngzero : Bool
  /-- STATUS.DONE (10_state.md R36). -/
  done : Bool
  /-- STATUS.ERRS (10_state.md R36). -/
  errs : Bool
  /-- STATUS.BUSYWR (10_state.md R36). -/
  busywr : Bool
  /-- STATUS.ERR (10_state.md R36). -/
  err : ErrCode
  /-- BLOCK.N (10_state.md R37). -/
  block : Byte
  /-- MAXATT (10_state.md R38). -/
  maxatt : Word
  /-- TILE (10_state.md R39). -/
  tileReg : Word
  /-- RESULT (10_state.md R40). -/
  result : Word
  /-- ATTEMPTS (10_state.md R41). -/
  attempts : Word
  /-- ERRINFO (10_state.md R42). -/
  errinfo : Word
  /-- PHASE, which is also STATUS.BUSY (10_state.md R50). -/
  phase : Phase
  /-- LCMD (10_state.md R50). -/
  lcmd : Word
  /-- LN (10_state.md R50). -/
  ln : Byte
  /-- LMAXATT (10_state.md R50). -/
  lmaxatt : Word
  /-- LTILE (10_state.md R50). -/
  ltile : Word
  /-- LZERO (10_state.md R50). -/
  lzero : Bool
  /-- The GENKEY progress state (10_state.md R50). -/
  gen : Option GenProgress
  /-- The staged result (10_state.md R50). -/
  staged : Option Staged
  /-- The level of the power-on reset input (70_reset_and_hazards.md R361). -/
  rst : Bool
  /-- The Host's coming transactions, next first (00_scope.md R4). -/
  inputs : List HostOp
  /-- What the Host was answered, newest first. -/
  responses : List Response
  /-- Who moves next where both agents may, next first (log entry 3). -/
  turns : List Agent
  /-- Where both agents may move and `turns` names nobody: how many Host steps still come before the Core's next
  step (70_reset_and_hazards.md R370, log entry 3). -/
  patience : Nat
  /-- The bytes the Entropy source answers next (10_state.md R52, log entry 4). -/
  entropy : List Byte
  /-- How many steps have run: the index of the free values (log entry 9). -/
  tick : Nat
  /-- How many bytes have been drawn: the index of the free draw (log entry 9). -/
  draws : Nat
  deriving DecidableEq, Repr

/-- Reasons to stop with a fault. There is none: a failing command completes with a code
(60_exceptions.md R320, R333), and a bad transaction is answered with a bus error (20_memory.md R86). -/
inductive Fault : Type where
  deriving DecidableEq, Repr

/-- Reasons a step has no meaning in the model. -/
inductive Refusal where
  /-- Raised by exec for a command that has no meaning yet (none here). Safe: the model stops. -/
  | notModelled (mnemonic : String)
  /-- Raised by a Host step when a transaction arrives while the reset input is asserted, which the
  platform must not issue (70_reset_and_hazards.md R360, U11 `refuse`). Safe: the model stops. -/
  | transactionInReset
  deriving DecidableEq, Repr

/-- The outcome of one step of this machine. -/
abbrev Outcome := Host.Outcome State Fault Refusal

/-- The state power-on reset leaves in a given configuration (10_state.md R55, R56, 70_reset_and_hazards.md
R360), the reset input released, nothing supplied by the outside. -/
def State.powerOn (c : Config) : State where
  cfg := c
  mem := []
  dims := Vector.replicate 16 0
  valid := 0
  ie := false
  rngzero := false
  done := false
  errs := false
  busywr := false
  err := .none
  block := 1
  maxatt := 0
  tileReg := 0
  result := 0
  attempts := 0
  errinfo := 0
  phase := .idle
  lcmd := 0
  ln := 0
  lmaxatt := 0
  ltile := 0
  lzero := false
  gen := none
  staged := none
  rst := false
  inputs := []
  responses := []
  turns := []
  patience := 0
  entropy := []
  tick := 0
  draws := 0

/-- The machine right after reset, in the reference configuration (log entry 1). -/
def State.reset : State := State.powerOn Config.reference

end Sys2Proof.Machine
end

