-- ==== Sys2Proof/Machine/Flags.lean ====
section
/-! DEFINITION. The register words that are put together from flags and fields, the flag computations, the interrupt line. -/

namespace Sys2Proof.Machine

/-- The number of an error code in STATUS.ERR (60_exceptions.md R320). -/
def ErrCode.number : ErrCode → BitVec 4
  | .none => 0
  | .illegalCmd => 1
  | .badBuffer => 2
  | .badBlock => 3
  | .unwritten => 4
  | .dimMismatch => 5
  | .badTile => 6
  | .nonInvertible => 7
  | .genExhausted => 8

/-- The error names a tile, so that ERRINFO holds its block coordinates (60_exceptions.md R331). -/
def ErrCode.namesTile : ErrCode → Bool
  | .nonInvertible => true
  | .genExhausted => true
  | .none | .illegalCmd | .badBuffer | .badBlock | .unwritten | .dimMismatch | .badTile => false

/-- STATUS.BUSY (10_state.md R36, R50). -/
def State.busy (s : State) : Bool := s.phase == .busy

/-- The ID register (10_state.md R33). -/
def idWord : Word := 0x48434331

/-- The PARAM register: LOGBUF = [20:16], NBUF = [12:8], NMAX = [7:0], the rest 0 (10_state.md R34). -/
def paramWord (c : Config) : Word :=
  0#11 ++ BitVec.ofNat 5 c.logbuf ++ 0#3 ++ BitVec.ofNat 5 c.nbuf ++ BitVec.ofNat 8 c.nmax

/-- What CTRL reads as: RNGZERO = [1], IE = [0], SRST and the rest 0 (10_state.md R35). -/
def State.ctrlWord (s : State) : Word :=
  0#30 ++ BitVec.ofBool s.rngzero ++ BitVec.ofBool s.ie

/-- What STATUS reads as: ERR = [11:8], BUSYWR = [3], ERRS = [2], DONE = [1], BUSY = [0], the rest 0
(10_state.md R36). -/
def State.statusWord (s : State) : Word :=
  0#20 ++ s.err.number ++ 0#4 ++ BitVec.ofBool s.busywr ++ BitVec.ofBool s.errs ++ BitVec.ofBool s.done
    ++ BitVec.ofBool s.busy

/-- What BLOCK reads as: N = [7:0], the rest 0 (10_state.md R37). -/
def State.blockWord (s : State) : Word := s.block.setWidth 32

/-- What VALID reads as: V = [15:0], the bits of buffers ≥ NBUF and the rest 0 (10_state.md R43). -/
def State.validWord (s : State) : Word :=
  (s.valid &&& BitVec.ofNat 16 (2 ^ s.cfg.nbuf - 1)).setWidth 32

/-- The interrupt output IRQ = CTRL.IE and STATUS.DONE (10_state.md R53, 60_exceptions.md R335). -/
def State.irq (s : State) : Bool := s.ie && s.done

/-- A RESULT word: INV = [8], DET = [7:0], the rest 0 (10_state.md R40, 41_invertibility.md R194). -/
def resultWord (inv : Bool) (det : Byte) : Word := 0#23 ++ BitVec.ofBool inv ++ det

/-- `d mod 2 = 1`, the flag RESULT.INV (41_invertibility.md R191, R194). -/
def isOdd (d : Byte) : Bool := d.toNat % 2 == 1

/-- A pair of block coordinates as ERRINFO and TILE hold it: TROW = [31:16], TCOL = [15:0]
(10_state.md R39, R42). -/
def tileWord (p q : Nat) : Word := BitVec.ofNat 16 p ++ BitVec.ofNat 16 q

/-- TROW or H: bits [31:16] of a register (10_state.md R39, R44). -/
def highHalf (w : Word) : Nat := (w.extractLsb' 16 16).toNat

/-- TCOL or W: bits [15:0] of a register (10_state.md R39, R44). -/
def lowHalf (w : Word) : Nat := (w.extractLsb' 0 16).toNat

/-- A host write of `v` to STATUS: DONE, ERRS and BUSYWR are cleared where `v` has a 1, the other bits of
`v` have no effect (10_state.md R36). It is the return from an error: the host's acknowledge
(60_exceptions.md R334). -/
def State.acknowledge (s : State) (v : Word) : State :=
  { s with
    done := s.done && !v.getLsbD 1
    errs := s.errs && !v.getLsbD 2
    busywr := s.busywr && !v.getLsbD 3 }

/-- A host write dropped because BUSY = 1 sets STATUS.BUSYWR and nothing else (10_state.md R49). -/
def State.noteDropped (s : State) : State := { s with busywr := true }

/-- `min(total + 1, 0xFFFF_FFFF)` (42_key_tiler.md R216, R218). -/
def saturatingSucc (total : Word) : Word := if total = 0xFFFFFFFF then total else total + 1

end Sys2Proof.Machine
end

