-- ==== Sys2Proof/Machine/Ops.lean ====
section
/-! DEFINITION. The named operations over memory, descriptors and VALID bits; the command lifecycle (accept, completion with and without error, resets); draws. -/

namespace Sys2Proof.Machine

/-! ### Memory -/

/-- The canonical form: addresses strictly rising. -/
abbrev Memory.wf (m : Memory) : Prop := m.Pairwise fun x y => x.1 < y.1

/-- The byte at an address; none if nothing has written it since power-on (10_state.md R56). -/
def Memory.read : Memory → Nat → Option Byte
  | [], _ => none
  | (k, w) :: rest, a => if a = k then some w else Memory.read rest a

/-- The memory after one byte is written; it keeps the canonical form. -/
def Memory.write : Memory → Nat → Byte → Memory
  | [], a, v => [(a, v)]
  | (k, w) :: rest, a, v =>
    if a < k then (a, v) :: (k, w) :: rest
    else if a = k then (a, v) :: rest
    else (k, w) :: Memory.write rest a v

/-- The memory after bytes are written at rising addresses from `a`. -/
def Memory.writeBytes : Memory → Nat → List Byte → Memory
  | m, _, [] => m
  | m, a, v :: vs => Memory.writeBytes (m.write a v) (a + 1) vs

/-- The host port address of BUF[b][o] (20_memory.md R80, R81). -/
def bufAddr (b o : Nat) : Nat := 0x01000000 + 0x00100000 * b + o

/-- `ReadBuf(b, o)` (20_memory.md R91): a byte never written reads as any value (10_state.md R56). -/
def State.readBuf (s : State) (b o : Nat) : Byte :=
  match s.mem.read (bufAddr b o) with
  | some v => v
  | none => Config.unwrittenByte s.tick (bufAddr b o)

/-! ### Descriptors and VALID bits -/

/-- DIM[b]; for b ≥ NBUF it reads as zero (10_state.md R44). -/
def State.dim (s : State) (b : Nat) : Word := if b < s.cfg.nbuf then s.dims[b]?.getD 0 else 0

/-- W(b) = DIM[b].W (00_scope.md R15). -/
def State.width (s : State) (b : Nat) : Nat := lowHalf (s.dim b)

/-- H(b) = DIM[b].H (00_scope.md R15). -/
def State.height (s : State) (b : Nat) : Nat := highHalf (s.dim b)

/-- VALID[b]; for b ≥ NBUF the bit reads 0 (10_state.md R43). -/
def State.isValid (s : State) (b : Nat) : Bool := decide (b < s.cfg.nbuf) && s.valid.getLsbD b

/-- The VALID register's bit of buffer `b`. -/
def validBit (b : Nat) : BitVec 16 := 1#16 <<< b

/-- The descriptors after DIM[b] ← w; for b ≥ NBUF the register is RAZ/WI (10_state.md R44). -/
def State.dimsWith (s : State) (b : Nat) (w : Word) : Vector Word 16 :=
  if b < s.cfg.nbuf then s.dims.setIfInBounds b w else s.dims

/-- VALID after VALID[b] ← 1; for b ≥ NBUF the bit cannot be set (10_state.md R43). -/
def State.validWith (s : State) (b : Nat) : BitVec 16 :=
  if b < s.cfg.nbuf then s.valid ||| validBit b else s.valid

/-- A host write of `w` to DIM[b]: the descriptor is set and VALID[b] cleared, for b < NBUF
(10_state.md R44). -/
def State.writeDim (s : State) (b : Nat) (w : Word) : State :=
  { s with
    dims := s.dimsWith b w
    valid := if b < s.cfg.nbuf then s.valid &&& ~~~validBit b else s.valid }

/-- A host write of `v` to VALID: bits written 1 are cleared (10_state.md R43). -/
def State.discard (s : State) (v : Word) : State :=
  { s with valid := s.valid &&& ~~~(v.setWidth 16) }

/-- A host write of bytes to BUF[b][o..]: the bytes land and VALID[b] is set (20_memory.md R88). -/
def State.loadBytes (s : State) (b o : Nat) (bytes : List Byte) : State :=
  { s with mem := s.mem.writeBytes (bufAddr b o) bytes, valid := s.validWith b }

/-! ### The command lifecycle -/

/-- Accept of the word `v` (40_command_common.md R160). -/
def State.accept (s : State) (v : Word) : State :=
  { s with
    lcmd := v
    ln := s.block
    lmaxatt := s.maxatt
    ltile := s.tileReg
    lzero := s.rngzero
    phase := .busy
    done := false
    err := .none }

/-- A command's outputs go to the staged result (40_command_common.md R167, 20_memory.md R91). -/
def State.stage (s : State) (dst : Nat) (dim : Word) (bytes : List Byte) : State :=
  { s with staged := some ⟨dst, dim, bytes⟩ }

/-- The buffer file's bytes after the staged result is committed (40_command_common.md R167). -/
def State.committedMem (s : State) : Memory :=
  match s.staged with
  | some g => s.mem.writeBytes (bufAddr g.dst 0) g.bytes
  | none => s.mem

/-- The descriptors after the staged result is committed. -/
def State.committedDims (s : State) : Vector Word 16 :=
  match s.staged with
  | some g => s.dimsWith g.dst g.dim
  | none => s.dims

/-- VALID after the staged result is committed. -/
def State.committedValid (s : State) : BitVec 16 :=
  match s.staged with
  | some g => s.validWith g.dst
  | none => s.valid

/-- Completion with code `e` (40_command_common.md R162): with e = NONE the staged result is committed,
otherwise it is discarded; ERRINFO is `info` where the error names a tile, else 0. -/
def State.complete (s : State) (e : ErrCode) (info : Word) : State :=
  { s with
    mem := if e = .none then s.committedMem else s.mem
    dims := if e = .none then s.committedDims else s.dims
    valid := if e = .none then s.committedValid else s.valid
    errinfo := if e.namesTile then info else 0
    err := e
    errs := s.errs || decide (e ≠ .none)
    phase := .idle
    done := true
    gen := none
    staged := none }

/-- `complete()` (00_scope.md R17): completion without error. -/
def State.succeed (s : State) : State := s.complete .none 0

/-- `raise Err(e, info)` (60_exceptions.md R330, R333): the one way an error ends a command. -/
def State.raiseErr (s : State) (e : ErrCode) (info : Word) : State := s.complete e info

/-- RESULT ← w, which only DET and INVKEY do (10_state.md R40). -/
def State.writeResult (s : State) (w : Word) : State := { s with result := w }

/-- ATTEMPTS ← w, which only GENKEY does (10_state.md R41). -/
def State.writeAttempts (s : State) (w : Word) : State := { s with attempts := w }

/-! ### Resets -/

/-- A host write to CTRL with SRST = 1 (70_reset_and_hazards.md R362). The latched copies keep their
values, which nothing reads while idle (log entry 8). -/
def State.softReset (s : State) : State :=
  { s with
    phase := .idle
    gen := none
    staged := none
    ie := false
    rngzero := false
    done := false
    errs := false
    busywr := false
    err := .none
    result := 0
    attempts := 0
    errinfo := 0 }

/-- The power-on reset input is driven to `level` (70_reset_and_hazards.md R360): the machine is in its reset
state while the input is asserted and when it is released; what the outside supplies stays. -/
def State.driveReset (s : State) (level : Bool) : State :=
  if level || s.rst then
    { State.powerOn s.cfg with
      rst := level
      inputs := s.inputs
      responses := s.responses
      turns := s.turns
      patience := s.patience
      entropy := s.entropy
      tick := s.tick
      draws := s.draws }
  else s

/-! ### Draws -/

/-- The i-th next Draw() (10_state.md R52): 0 while LZERO = 1, else the byte supplied, else a free byte. -/
def State.nextDraw (s : State) (i : Nat) : Byte :=
  if s.lzero then 0 else s.entropy[i]?.getD (Config.drawnByte (s.draws + i))

/-- The next k draws, in order. -/
def State.drawBytes (s : State) (k : Nat) : List Byte := (List.range k).map s.nextDraw

/-- The state after k draws; with LZERO = 1 the source is not consulted (10_state.md R52). -/
def State.afterDraws (s : State) (k : Nat) : State :=
  { s with
    entropy := if s.lzero then s.entropy else s.entropy.drop k
    draws := if s.lzero then s.draws else s.draws + k }

/-! ### The environment -/

/-- The Host is answered. -/
def State.respond (s : State) (r : Response) : State := { s with responses := r :: s.responses }

/-- The Host's program goes on to `rest`. -/
def State.withInputs (s : State) (rest : List HostOp) : State := { s with inputs := rest }

/-- Both agents have an enabled step (70_reset_and_hazards.md R371). -/
def State.contested (s : State) : Bool := s.busy && !s.inputs.isEmpty

/-- Who moves when both agents may: the choice `turns` names, else the Host until the Core's delay is over
(70_reset_and_hazards.md R370, log entry 3). -/
def State.nextTurn (s : State) : Agent :=
  match s.turns with
  | who :: _ => who
  | [] => if s.patience = 0 then .core else .host

/-- A step begins: the index of the free values moves on, a choice of who moves is used up, and a Host step that
comes before a step the Core could take brings that step nearer (70_reset_and_hazards.md R370). -/
def State.beginStep (s : State) : State :=
  { s with
    tick := s.tick + 1
    turns := if s.contested then s.turns.tail else s.turns
    patience := if s.contested ∧ s.nextTurn = .host then s.patience - 1 else Config.coreDelay s.tick }

end Sys2Proof.Machine
end

