-- ==== Sys2Proof/Machine/Arith.lean ====
section
/-! DEFINITION. Matrices of bytes: determinant mod 256, the invertibility test, product, inverse and exclusive or. -/

namespace Sys2Proof.Machine

/-- An n×n matrix of bytes, row then column; only the entries below n mean anything (00_scope.md R16). -/
abbrev Mat := Nat → Nat → Byte

/-- The entries read as unsigned numbers over ℤ (41_invertibility.md R190). -/
def Mat.toZ (m : Mat) : Nat → Nat → Int := fun a c => ((m a c).toNat : Int)

/-- `minor(M, r, s)`: M with row r and column s deleted (45_inverter.md R281). -/
def minorZ (m : Nat → Nat → Int) (r s : Nat) : Nat → Nat → Int :=
  fun a c => m (if a < r then a else a + 1) (if c < s then c else c + 1)

/-- The determinant over ℤ of the leading n×n matrix, by expansion along row 0 (41_invertibility.md R190;
R192 allows the method, log entry 14). -/
def detZ : Nat → (Nat → Nat → Int) → Int
  | 0, _ => 1
  | n + 1, m => ((List.range (n + 1)).map fun j => (-1) ^ j * m 0 j * detZ n (minorZ m 0 j)).sum

/-- The byte of an integer mod 256, the floored remainder (00_scope.md R13). -/
def byteOfInt (z : Int) : Byte := BitVec.ofNat 8 (z % 256).toNat

/-- `DetMod(M)` (41_invertibility.md R190). -/
def detMod (n : Nat) (m : Mat) : Byte := byteOfInt (detZ n m.toZ)

/-- `Invertible(M) := gcd(DetMod(M), 256) = 1` (41_invertibility.md R191). -/
def invertible (n : Nat) (m : Mat) : Bool := Nat.gcd (detMod n m).toNat 256 == 1

/-- `MulMod(K, X)`: the exact sum of products, reduced once at the end (43_block_multiply.md R240). -/
def mulMod (n : Nat) (k x : Mat) : Mat :=
  fun a c => BitVec.ofNat 8 (((List.range n).map fun j => (k a j).toNat * (x j c).toNat).sum % 256)

/-- The inverse mod 256 of an odd byte, d^63 mod 256 (45_inverter.md R281, R282). -/
def byteInverse (d : Byte) : Byte := BitVec.ofNat 8 (d.toNat ^ 63 % 256)

/-- `adj(M)[a][c] = (−1)^(a+c) · detZ(minor(M, c, a))` (45_inverter.md R281). -/
def adjugate (n : Nat) (m : Nat → Nat → Int) (a c : Nat) : Int :=
  (-1) ^ (a + c) * detZ (n - 1) (minorZ m c a)

/-- `InvMod(M) = (x · adj(M)) mod 256` (45_inverter.md R281). -/
def invMod (n : Nat) (m : Mat) : Mat :=
  fun a c => byteOfInt (((byteInverse (detMod n m)).toNat : Int) * adjugate n m.toZ a c)

/-- `XorTile(X, Y)` (44_mask.md R262). -/
def xorTile (x y : Mat) : Mat := fun a c => x a c ^^^ y a c

/-- The identity I_n (00_scope.md R16). -/
def identityMat : Mat := fun a c => if a = c then 1 else 0

/-- The n×n matrix of n² bytes in row-major order (42_key_tiler.md R210). -/
def matOfBytes (n : Nat) (bytes : List Byte) : Mat := fun a c => bytes.getD (a * n + c) 0

end Sys2Proof.Machine
end

