-- ==== Sys2Proof/Machine/Operands.lean ====
section
/-! DEFINITION. The operands of a command: buffers as grids of tiles, and the checks of validation. -/

namespace Sys2Proof.Machine

/-! ### Tiles -/

/-- n = LN, the block size of the running command (30_encoding.md R124). -/
def State.n (s : State) : Nat := s.ln.toNat

/-- TR(b) = H(b) / n (40_command_common.md R164). -/
def State.tileRows (s : State) (b : Nat) : Nat := s.height b / s.n

/-- TC(b) = W(b) / n (40_command_common.md R164). -/
def State.tileCols (s : State) (b : Nat) : Nat := s.width b / s.n

/-- `Pix(b, r, c) = BUF[b][r·W + c]` (10_state.md R46). -/
def State.pix (s : State) (b r c : Nat) : Byte := s.readBuf b (r * s.width b + c)

/-- `Tile(b, p, q)` (40_command_common.md R164). -/
def State.tile (s : State) (b p q : Nat) : Mat := fun a c => s.pix b (p * s.n + a) (q * s.n + c)

/-- Block order: block row outer, block column inner (40_command_common.md R165). -/
def blockOrder (rows cols : Nat) : List (Nat × Nat) :=
  (List.range rows).flatMap fun p => (List.range cols).map fun q => (p, q)

/-- The W·H bytes, in offset order, of the grid whose tile (p, q) is `f p q`: pixel (r, c) is entry
(r mod n, c mod n) of tile (r / n, c / n). It is what `SetTile` over every tile stages
(40_command_common.md R164, R166). -/
def gridBytes (n w h : Nat) (f : Nat → Nat → Mat) : List Byte :=
  (List.range (w * h)).map fun o => f (o / w / n) (o % w / n) (o / w % n) (o % w % n)

/-- A command ends with its grid staged for buffer `d`, committed with descriptor `dim`
(40_command_common.md R162, R167). -/
def State.commitGrid (s : State) (d : Nat) (dim : Word) (bytes : List Byte) : State :=
  (s.stage d dim bytes).succeed

/-! ### Validation -/

/-- The block size is legal: no BAD_BLOCK (60_exceptions.md R323). -/
abbrev State.BlockLegal (s : State) : Prop := s.n ≠ 0 ∧ s.n ≤ s.cfg.nmax

/-- `ValidDims(b)` (40_command_common.md R169). -/
abbrev State.ValidDims (s : State) (b : Nat) : Prop :=
  1 ≤ s.width b ∧ 1 ≤ s.height b ∧ s.width b * s.height b ≤ s.cfg.bufBytes
    ∧ s.width b % s.n = 0 ∧ s.height b % s.n = 0

/-- `SameDims(a, b)` (40_command_common.md R169). -/
abbrev State.SameDims (s : State) (a b : Nat) : Prop :=
  s.width a = s.width b ∧ s.height a = s.height b

/-- LTILE names a tile of buffer `a`: no BAD_TILE (60_exceptions.md R326). -/
abbrev State.TileInRange (s : State) (a : Nat) : Prop :=
  highHalf s.ltile < s.tileRows a ∧ lowHalf s.ltile < s.tileCols a

/-- What a command's row asks of validation (60_exceptions.md R321, R322, R325). -/
structure Checks where
  /-- The buffer fields the row uses. -/
  used : List Nat
  /-- The buffers the command reads as sources. -/
  sources : List Nat
  /-- The buffers whose descriptor must satisfy ValidDims. -/
  grids : List Nat
  /-- The two sources that must satisfy SameDims, if the row asks it. -/
  same : Option (Nat × Nat)

/-- SameDims holds of the pair, if there is one. -/
def State.sameOk (s : State) : Option (Nat × Nat) → Bool
  | some (a, b) => decide (s.SameDims a b)
  | none => true

/-- The first of the checks 2 to 5 that fails, in the order of 60_exceptions.md R329. -/
def State.firstError (s : State) (k : Checks) : Option ErrCode :=
  if k.used.any fun b => decide (s.cfg.nbuf ≤ b) then some .badBuffer
  else if ¬ s.BlockLegal then some .badBlock
  else if k.sources.any fun b => !s.isValid b then some .unwritten
  else if (k.grids.any fun b => !decide (s.ValidDims b)) || !s.sameOk k.same then some .dimMismatch
  else none

/-- Validation, then execution (40_command_common.md R161): the first failing check completes the command with
its code and no other effect. -/
def State.validated (s : State) (k : Checks) (execute : State → Outcome) : Outcome :=
  match s.firstError k with
  | some e => .next (s.raiseErr e 0)
  | none => execute s

end Sys2Proof.Machine
end

