-- ==== Sys2Proof/Machine/BlockMultiply.lean ====
section
/-! DEFINITION. MMUL, the block-wise matrix product mod 256. -/

namespace Sys2Proof.Machine

/-- What MMUL checks (43_block_multiply.md R241). -/
def mmulChecks (d a b : Nat) : Checks := ⟨[d, a, b], [a, b], [a, b], some (a, b)⟩

/-- The bytes MMUL stages: each tile is the key tile times the channel tile (43_block_multiply.md R241). -/
def State.mmulBytes (s : State) (a b : Nat) : List Byte :=
  gridBytes s.n (s.width b) (s.height b) fun p q => mulMod s.n (s.tile a p q) (s.tile b p q)

/-- MMUL bD, bA, bB (43_block_multiply.md R241); DIM[D] ← DIM[B]. -/
def execMmul (d a b : Nat) (s : State) : Outcome :=
  s.validated (mmulChecks d a b) fun s => .next (s.commitGrid d (s.dim b) (s.mmulBytes a b))

end Sys2Proof.Machine
end

