-- ==== Sys2Proof/Machine/Inverter.lean ====
section
/-! DEFINITION. INVKEY, the modular matrix inverter. -/

namespace Sys2Proof.Machine

/-- What INVKEY checks (45_inverter.md R284). -/
def invkeyChecks (d a : Nat) : Checks := ⟨[d, a], [a], [a], none⟩

/-- The tiles INVKEY examines, in block order: tile (0,0), or every tile when C = 1 (45_inverter.md R284). -/
def State.invkeyTiles (s : State) (a : Nat) (c : Bool) : List (Nat × Nat) :=
  if c then blockOrder (s.tileRows a) (s.tileCols a) else [(0, 0)]

/-- DetMod of tile (p, q) of buffer `a`. -/
def State.tileDet (s : State) (a : Nat) (t : Nat × Nat) : Byte := detMod s.n (s.tile a t.1 t.2)

/-- The first examined tile with an even DetMod (60_exceptions.md R327). -/
def State.firstSingular (s : State) (a : Nat) (c : Bool) : Option (Nat × Nat) :=
  (s.invkeyTiles a c).find? fun t => !isOdd (s.tileDet a t)

/-- The bytes INVKEY stages: the inverse of tile (0,0) in every tile, or each tile's own inverse
(45_inverter.md R284). -/
def State.invkeyBytes (s : State) (a : Nat) (c : Bool) : List Byte :=
  gridBytes s.n (s.width a) (s.height a) fun p q =>
    invMod s.n (if c then s.tile a p q else s.tile a 0 0)

/-- INVKEY bD, bA and INVKEY.C bD, bA (45_inverter.md R284); DIM[D] ← DIM[A]. -/
def execInvkey (d a : Nat) (c : Bool) (s : State) : Outcome :=
  s.validated (invkeyChecks d a) fun s =>
    match s.firstSingular a c with
    | some t =>
      .next ((s.writeResult (resultWord false (s.tileDet a t))).raiseErr .nonInvertible (tileWord t.1 t.2))
    | none =>
      .next ((s.writeResult (resultWord true (s.tileDet a (0, 0)))).commitGrid d (s.dim a) (s.invkeyBytes a c))

end Sys2Proof.Machine
end

