-- ==== Sys2Proof/Machine/Invertibility.lean ====
section
/-! DEFINITION. DET, the invertibility checker. -/

namespace Sys2Proof.Machine

/-- What DET checks before BAD_TILE (41_invertibility.md R194). -/
def detChecks (a : Nat) : Checks := ⟨[a], [a], [a], none⟩

/-- The determinant DET reports: of the tile LTILE of buffer `a` (41_invertibility.md R194). -/
def State.detOfTile (s : State) (a : Nat) : Byte :=
  detMod s.n (s.tile a (highHalf s.ltile) (lowHalf s.ltile))

/-- DET bA (41_invertibility.md R194). -/
def execDet (a : Nat) (s : State) : Outcome :=
  s.validated (detChecks a) fun s =>
    if s.TileInRange a then
      .next (s.writeResult (resultWord (isOdd (s.detOfTile a)) (s.detOfTile a))).succeed
    else .next (s.raiseErr .badTile 0)

end Sys2Proof.Machine
end

