-- ==== Sys2Proof/Machine/KeyTiler.lean ====
section
/-! DEFINITION. GENKEY and TILEKEY, the key tiler. -/

namespace Sys2Proof.Machine

/-- What GENKEY checks (42_key_tiler.md R216): VALID[D] is not checked. -/
def genkeyChecks (d : Nat) : Checks := ⟨[d], [], [d], none⟩

/-- How many sub-keys GENKEY generates: one, or one per tile when C = 1 (42_key_tiler.md R216). -/
def State.genCount (s : State) (d : Nat) (c : Bool) : Nat :=
  if c then s.tileRows d * s.tileCols d else 1

/-- The progress of a GENKEY that has passed validation and made no attempt. -/
def GenProgress.start : GenProgress := ⟨0, 0, 0, []⟩

/-- The running GENKEY's progress becomes `g`. -/
def State.withGen (s : State) (g : GenProgress) : State := { s with gen := some g }

/-- The n² bytes the next attempt draws, in row-major order (42_key_tiler.md R210). -/
def State.attemptBytes (s : State) : List Byte := s.drawBytes (s.n * s.n)

/-- The attempt's matrix is invertible (42_key_tiler.md R210). -/
def State.attemptSucceeds (s : State) : Bool := invertible s.n (matOfBytes s.n s.attemptBytes)

/-- The block coordinates of the tile being generated (42_key_tiler.md R216). -/
def State.genTileWord (s : State) (d : Nat) (g : GenProgress) : Word :=
  tileWord (g.tile / s.tileCols d) (g.tile % s.tileCols d)

/-- The bytes GENKEY stages: sub-key (p, q) in tile (p, q) when C = 1, sub-key (0, 0) in every tile otherwise
(42_key_tiler.md R216). -/
def State.genkeyBytes (s : State) (d : Nat) (c : Bool) (subkeys : List (List Byte)) : List Byte :=
  gridBytes s.n (s.width d) (s.height d) fun p q =>
    matOfBytes s.n (subkeys.getD (if c then p * s.tileCols d + q else 0) [])

/-- One iteration of GENKEY's `repeat`, one Core step (42_key_tiler.md R216, 40_command_common.md R163). -/
def State.genkeyAttempt (s : State) (d : Nat) (c : Bool) (g : GenProgress) : State :=
  let drawn := s.afterDraws (s.n * s.n)
  let k := g.attempts + 1
  let total := saturatingSucc g.total
  if s.attemptSucceeds then
    let subkeys := g.subkeys ++ [s.attemptBytes]
    if g.tile + 1 = s.genCount d c then
      (drawn.writeAttempts total).commitGrid d (s.dim d) (s.genkeyBytes d c subkeys)
    else drawn.withGen ⟨g.tile + 1, 0, total, subkeys⟩
  else if s.lmaxatt ≠ 0 ∧ k = s.lmaxatt.toNat then
    (drawn.writeAttempts total).raiseErr .genExhausted (s.genTileWord d g)
  else drawn.withGen ⟨g.tile, k, total, g.subkeys⟩

/-- GENKEY bD and GENKEY.C bD (42_key_tiler.md R216): the step that validates the command, then one step per
attempt; DIM[D] is kept. -/
def execGenkey (d : Nat) (c : Bool) (s : State) : Outcome :=
  match s.gen with
  | none => s.validated (genkeyChecks d) fun s => .next (s.withGen GenProgress.start)
  | some g => .next (s.genkeyAttempt d c g)

/-- What TILEKEY checks (42_key_tiler.md R220). -/
def tilekeyChecks (d a : Nat) : Checks := ⟨[d, a], [a], [a, d], none⟩

/-- The bytes TILEKEY stages: tile (0,0) of `a` in every tile of `d` (42_key_tiler.md R220). -/
def State.tilekeyBytes (s : State) (d a : Nat) : List Byte :=
  gridBytes s.n (s.width d) (s.height d) fun _ _ => s.tile a 0 0

/-- TILEKEY bD, bA (42_key_tiler.md R220); DIM[D] is kept. -/
def execTilekey (d a : Nat) (s : State) : Outcome :=
  s.validated (tilekeyChecks d a) fun s => .next (s.commitGrid d (s.dim d) (s.tilekeyBytes d a))

end Sys2Proof.Machine
end

