-- ==== Sys2Proof/Machine/Lifecycle.lean ====
section
/-! DEFINITION. NOP. -/

namespace Sys2Proof.Machine

/-- NOP (40_command_common.md R170): `complete()`. -/
def execNop (s : State) : Outcome := .next s.succeed

end Sys2Proof.Machine
end

