-- ==== Sys2Proof/Machine/MaskLayer.lean ====
section
/-! DEFINITION. RAND and XOR, the mask layer. -/

namespace Sys2Proof.Machine

/-- What RAND checks (44_mask.md R261): VALID[D] is not checked. -/
def randChecks (d : Nat) : Checks := ⟨[d], [], [d], none⟩

/-- RAND bD (44_mask.md R260, R261): one draw per grid byte in offset order; DIM[D] is kept. -/
def execRand (d : Nat) (s : State) : Outcome :=
  s.validated (randChecks d) fun s =>
    let k := s.width d * s.height d
    .next ((s.afterDraws k).commitGrid d (s.dim d) (s.drawBytes k))

/-- What XOR checks (44_mask.md R263). -/
def xorChecks (d a b : Nat) : Checks := ⟨[d, a, b], [a, b], [a, b], some (a, b)⟩

/-- The bytes XOR stages (44_mask.md R262, R263). -/
def State.xorBytes (s : State) (a b : Nat) : List Byte :=
  gridBytes s.n (s.width a) (s.height a) fun p q => xorTile (s.tile a p q) (s.tile b p q)

/-- XOR bD, bA, bB (44_mask.md R263); DIM[D] ← DIM[A]. -/
def execXor (d a b : Nat) (s : State) : Outcome :=
  s.validated (xorChecks d a b) fun s => .next (s.commitGrid d (s.dim a) (s.xorBytes a b))

end Sys2Proof.Machine
end

