-- ==== Sys2Proof/Machine/Dispatch.lean ====
section
/-! DEFINITION. One arm per command: which meaning runs. -/

namespace Sys2Proof.Machine

def exec (i : Instr) (s : State) : Host.Outcome State Fault Refusal :=
  match i with
  | .nop => Sys2Proof.Machine.execNop s
  | .mmul d a b => Sys2Proof.Machine.execMmul d a b s
  | .det a => Sys2Proof.Machine.execDet a s
  | .invkey d a c => Sys2Proof.Machine.execInvkey d a c s
  | .genkey d c => Sys2Proof.Machine.execGenkey d c s
  | .tilekey d a => Sys2Proof.Machine.execTilekey d a s
  | .rand d => Sys2Proof.Machine.execRand d s
  | .xor d a b => Sys2Proof.Machine.execXor d a b s

end Sys2Proof.Machine
end

