-- ==== Sys2Proof/Machine/HostPort.lean ====
section
/-! DEFINITION. The host port: address map, register reads and writes, buffer window, transactions, and the Host agent's step. -/

namespace Sys2Proof.Machine

/-- The bytes of a transaction (00_scope.md R17). -/
def AccessSize.bytes : AccessSize → Nat
  | .byte => 1
  | .half => 2
  | .word => 4

/-- The registers of the register map (20_memory.md R83). -/
inductive Reg where
  | id
  | param
  | ctrl
  | status
  | cmd
  | block
  | maxatt
  | tile
  | result
  | attempts
  | errinfo
  | valid
  | dim (b : Nat)
  /-- An offset of the register page that is not listed (20_memory.md R82). -/
  | unmapped
  deriving DecidableEq, Repr

/-- The register at an offset that is a multiple of 4 (20_memory.md R83). -/
def regAt (off : Nat) : Reg :=
  if off = 0x000 then .id
  else if off = 0x004 then .param
  else if off = 0x008 then .ctrl
  else if off = 0x00C then .status
  else if off = 0x010 then .cmd
  else if off = 0x014 then .block
  else if off = 0x018 then .maxatt
  else if off = 0x01C then .tile
  else if off = 0x020 then .result
  else if off = 0x024 then .attempts
  else if off = 0x028 then .errinfo
  else if off = 0x02C then .valid
  else if 0x040 ≤ off ∧ off < 0x080 then .dim ((off - 0x040) / 4)
  else .unmapped

/-- What an access reaches (20_memory.md R80 to R85). -/
inductive Target where
  | reg (r : Reg)
  /-- The bytes from BUF[b][o]. -/
  | buffer (b o : Nat)
  | busError
  deriving DecidableEq, Repr

/-- The byte BUF[b][o] exists (20_memory.md R81). -/
abbrev ByteExists (c : Config) (b o : Nat) : Prop := b < c.nbuf ∧ o < c.bufBytes

/-- The address map with its width and alignment rules (20_memory.md R80, R81, R84, R85). -/
def targetOf (c : Config) (addr : Word) (size : AccessSize) : Target :=
  let at' := addr.toNat
  if at' < 0x1000 then
    if size = .word ∧ at' % 4 = 0 then .reg (regAt at') else .busError
  else if 0x01000000 ≤ at' ∧ at' ≤ 0x01FFFFFF then
    let b := (addr.extractLsb' 20 4).toNat
    let o := (addr.extractLsb' 0 20).toNat
    if at' % size.bytes = 0 ∧ ByteExists c b o ∧ ByteExists c b (o + size.bytes - 1) then .buffer b o
    else .busError
  else .busError

/-- What a register reads as (10_state.md R33 to R44, R48, 20_memory.md R82). -/
def State.readReg (s : State) : Reg → Word
  | .id => idWord
  | .param => paramWord s.cfg
  | .ctrl => s.ctrlWord
  | .status => s.statusWord
  | .cmd => 0
  | .block => s.blockWord
  | .maxatt => s.maxatt
  | .tile => s.tileReg
  | .result => s.result
  | .attempts => s.attempts
  | .errinfo => s.errinfo
  | .valid => s.validWord
  | .dim b => s.dim b
  | .unmapped => 0

/-- A write that is dropped while busy, and else has the given effect (10_state.md R49). -/
def State.unlessBusy (s : State) (effect : State) : State :=
  if s.busy then s.noteDropped else effect

/-- A host write to CTRL; it acts while busy too (10_state.md R35, 70_reset_and_hazards.md R362). -/
def State.writeCtrl (s : State) (v : Word) : State :=
  if v.getLsbD 2 then s.softReset else { s with ie := v.getLsbD 0, rngzero := v.getLsbD 1 }

/-- A host write of `v` to a register (10_state.md R33 to R44, R48, R49, 20_memory.md R82). -/
def State.writeReg (s : State) (v : Word) : Reg → State
  | .id => s
  | .param => s
  | .ctrl => s.writeCtrl v
  | .status => s.acknowledge v
  | .cmd => s.unlessBusy (s.accept v)
  | .block => s.unlessBusy { s with block := v.setWidth 8 }
  | .maxatt => s.unlessBusy { s with maxatt := v }
  | .tile => s.unlessBusy { s with tileReg := v }
  | .result => s
  | .attempts => s
  | .errinfo => s
  | .valid => s.unlessBusy (s.discard v)
  | .dim b => s.unlessBusy (s.writeDim b v)
  | .unmapped => s

/-- What the Host reads for BUF[b][o] (20_memory.md R89): any value while BUSY = 1 or if never written. -/
def State.hostByte (s : State) (b o : Nat) : Byte :=
  if s.busy then Config.busyByte s.tick (bufAddr b o) else s.readBuf b o

/-- Bytes assembled little-endian: the k-th in data bits [8k+7:8k] (20_memory.md R87). -/
def wordOfBytes : List Byte → Word
  | [] => 0
  | v :: vs => (v.setWidth 32) ||| (wordOfBytes vs <<< 8)

/-- Byte k of a word: bits [8k+7:8k] (20_memory.md R87). -/
def byteOfWord (v : Word) (k : Nat) : Byte := v.extractLsb' (8 * k) 8

/-- The s bytes of a write's data, in address order (20_memory.md R88). -/
def writtenBytes (size : AccessSize) (v : Word) : List Byte :=
  (List.range size.bytes).map (byteOfWord v)

/-- `MemRead(addr, s)` (00_scope.md R17): no side effect (20_memory.md R90). -/
def State.memRead (s : State) (addr : Word) (size : AccessSize) : Response :=
  match targetOf s.cfg addr size with
  | .reg r => .data (s.readReg r)
  | .buffer b o => .data (wordOfBytes ((List.range size.bytes).map fun k => s.hostByte b (o + k)))
  | .busError => .busError

/-- What `MemWrite(addr, s, v)` answers. -/
def State.memWriteResponse (s : State) (addr : Word) (size : AccessSize) : Response :=
  match targetOf s.cfg addr size with
  | .reg _ => .ok
  | .buffer _ _ => .ok
  | .busError => .busError

/-- The state after `MemWrite(addr, s, v)`; a bus error changes nothing (20_memory.md R86, R88). -/
def State.memWrite (s : State) (addr : Word) (size : AccessSize) (v : Word) : State :=
  match targetOf s.cfg addr size with
  | .reg r => s.writeReg v r
  | .buffer b o => s.unlessBusy (s.loadBytes b o (writtenBytes size v))
  | .busError => s

/-- The address of STATUS (20_memory.md R83). -/
def statusAddr : Word := 0x0000000C

/-- One transaction of the Host, `rest` being what it does next; WAIT reads STATUS once a step and goes on
when it reads BUSY = 0 (30_encoding.md R130). -/
def State.transact (s : State) (op : HostOp) (rest : List HostOp) : State :=
  match op with
  | .read addr size => (s.withInputs rest).respond (s.memRead addr size)
  | .write addr size v => ((s.memWrite addr size v).withInputs rest).respond (s.memWriteResponse addr size)
  | .wait => (if s.busy then s else s.withInputs rest).respond (s.memRead statusAddr .word)
  | .rst level => (s.withInputs rest).driveReset level

/-- The Host agent's step: its next transaction, or a change of the reset input. A transaction while the reset
input is asserted is outside the spec (70_reset_and_hazards.md R360, U11). -/
def hostStep (s : State) : Outcome :=
  match s.inputs with
  | [] => .next s
  | .rst level :: rest => .next (s.transact (.rst level) rest)
  | op :: rest => if s.rst then .refused .transactionInReset else .next (s.transact op rest)

end Sys2Proof.Machine
end

