-- ==== Sys2Proof/Machine/Sequencer.lean ====
section
/-! DEFINITION. The Core sequencer's step, and which agent moves. -/

namespace Sys2Proof.Machine

/-- The Core's step on the latched command (40_command_common.md R161, R163): the command's meaning, or
ILLEGAL_CMD when the word is no row of the table (60_exceptions.md R321). -/
def coreStep (s : State) : Outcome :=
  match decode s.lcmd with
  | .ok i => exec i s
  | .error _ => .next (s.raiseErr .illegalCmd 0)

/-- Who moves in this step (70_reset_and_hazards.md R371): the Core only if PHASE = BUSY, the Host only if it has a
next transaction, nobody at the end of the run (R374). -/
def State.mover (s : State) : Option Agent :=
  match s.phase, s.inputs with
  | .idle, [] => none
  | .idle, _ :: _ => some .host
  | .busy, [] => some .core
  | .busy, _ :: _ => some s.nextTurn

end Sys2Proof.Machine
end

