-- ==== Sys2Proof/Machine/Step.lean ====
section
/-! DEFINITION. One step of the machine. -/

namespace Sys2Proof.Machine

/-- One step of one agent (00_scope.md R4, 70_reset_and_hazards.md R370, R371). At the end of a run the machine idles
(60_exceptions.md R343, log entry 7). -/
def step (s : State) : Host.Outcome State Fault Refusal :=
  match s.mover with
  | none => .next s
  | some .host => hostStep s.beginStep
  | some .core => coreStep s.beginStep

/-- The word has been accepted (40_command_common.md R160) and the Host does nothing more, so that the next step is the
Core's step on it. The HCC fetches nothing (10_state.md R32): log entry 2. -/
def State.withFetchWord (s : State) (nbits w : Nat) : State :=
  { s.accept (BitVec.ofNat 32 (w % 2 ^ nbits)) with inputs := [], gen := none, staged := none }

end Sys2Proof.Machine
end

