-- ==== Sys2Proof/Safety.lean ====
section
/-! DEFINITION. The terms claims are stated in: what a command may touch, how it ends, the invariant of every run, when the outside keeps to the spec. -/

namespace Sys2Proof.Machine

/-! ### What a row of the opcode table uses (60_exceptions.md R320, R322, R325) -/

/-- The buffer fields the row uses (30_encoding.md R125). -/
def usedBuffers : Instr → List Nat
  | .nop => []
  | .mmul d a b => [d, a, b]
  | .det a => [a]
  | .invkey d a _ => [d, a]
  | .genkey d _ => [d]
  | .tilekey d a => [d, a]
  | .rand d => [d]
  | .xor d a b => [d, a, b]

/-- The buffers the command reads as sources (60_exceptions.md R322). -/
def sourceBuffers : Instr → List Nat
  | .nop => []
  | .mmul _ a b => [a, b]
  | .det a => [a]
  | .invkey _ a _ => [a]
  | .genkey _ _ => []
  | .tilekey _ a => [a]
  | .rand _ => []
  | .xor _ a b => [a, b]

/-- The buffers whose descriptor must satisfy ValidDims (60_exceptions.md R325). -/
def gridBuffers : Instr → List Nat
  | .nop => []
  | .mmul _ a b => [a, b]
  | .det a => [a]
  | .invkey _ a _ => [a]
  | .genkey d _ => [d]
  | .tilekey d a => [a, d]
  | .rand d => [d]
  | .xor _ a b => [a, b]

/-- The command's descriptor checks pass (60_exceptions.md R325). -/
def State.DimsPass (s : State) (i : Instr) : Prop :=
  (∀ b ∈ gridBuffers i, s.ValidDims b) ∧
    match i with
    | .mmul _ a b => s.SameDims a b
    | .xor _ a b => s.SameDims a b
    | .nop | .det _ | .invkey _ _ _ | .genkey _ _ | .tilekey _ _ | .rand _ => True

/-- Checks 2 to 5 of 60_exceptions.md R329 pass for the command. -/
def State.Validates (s : State) (i : Instr) : Prop :=
  (∀ b ∈ usedBuffers i, b < s.cfg.nbuf) ∧ s.BlockLegal ∧ (∀ b ∈ sourceBuffers i, s.isValid b = true) ∧ s.DimsPass i

/-- The buffer the command writes (40_command_common.md R172). -/
def destination : Instr → Option Nat
  | .nop => none
  | .mmul d _ _ => some d
  | .det _ => none
  | .invkey d _ _ => some d
  | .genkey d _ => some d
  | .tilekey d _ => some d
  | .rand d => some d
  | .xor d _ _ => some d

/-- How many bytes, from offset 0 of its destination, the command writes when it completes without error
(40_command_common.md R167, R172). -/
def storedCount (s : State) : Instr → Nat
  | .nop => 0
  | .mmul _ _ b => s.width b * s.height b
  | .det _ => 0
  | .invkey _ a _ => s.width a * s.height a
  | .genkey d _ => s.width d * s.height d
  | .tilekey d _ => s.width d * s.height d
  | .rand d => s.width d * s.height d
  | .xor _ a _ => s.width a * s.height a

/-! ### How a command ends -/

/-- `s` after a completion with code `e` ≠ NONE and error info `info` (40_command_common.md R162, 60_exceptions.md
R332): the buffer file is as before. -/
def State.failedWith (s : State) (e : ErrCode) (info : Word) : State :=
  { s with err := e, errs := true, errinfo := info, done := true, phase := .idle, gen := none, staged := none }

/-- `s` after a completion without error of a command with no outputs (40_command_common.md R162). -/
def State.finished (s : State) : State :=
  { s with err := .none, errinfo := 0, done := true, phase := .idle, gen := none, staged := none }

/-- `t` is `s` after a completion without error, but for the buffer file, RESULT, ATTEMPTS and the draws used
(40_command_common.md R162). -/
def State.FinishedFrom (t s : State) : Prop :=
  t = { s.finished with
        mem := t.mem, dims := t.dims, valid := t.valid, result := t.result, attempts := t.attempts,
        entropy := t.entropy, draws := t.draws }

/-- Tile (p, q) of buffer `d` is stored as `m` (40_command_common.md R164). -/
def State.HoldsTile (t : State) (d p q : Nat) (m : Mat) : Prop :=
  ∀ i j, i < t.n → j < t.n →
    t.mem.read (bufAddr d ((p * t.n + i) * t.width d + (q * t.n + j))) = some (m i j)

/-- Every tile of buffer `d` is stored, tile (p, q) as `f p q`. -/
def State.HoldsTiles (t : State) (d : Nat) (f : Nat → Nat → Mat) : Prop :=
  ∀ p q, p < t.tileRows d → q < t.tileCols d → t.HoldsTile d p q (f p q)

/-- Every grid byte of buffer `b` has been written since power-on (10_state.md R56). -/
def State.GridWritten (s : State) (b : Nat) : Prop :=
  ∀ o, o < s.width b * s.height b → (s.mem.read (bufAddr b o)).isSome = true

/-- Two n×n matrices have the same entries. -/
def MatEq (n : Nat) (x y : Mat) : Prop := ∀ i j, i < n → j < n → x i j = y i j

/-! ### Who moves (70_reset_and_hazards.md R370, R371) -/

/-- A busy machine's next step is the Core's: the Host has no transaction, or the choice named is the Core, or none
is named and the Core's delay is over. -/
def State.CoreTurn (s : State) : Prop :=
  s.inputs = [] ∨ (∃ ts, s.turns = .core :: ts) ∨ (s.turns = [] ∧ s.patience = 0)

/-- A machine with a transaction to come takes it next: it is idle, or the choice named is the Host, or none is named
and the Core's delay is not over. -/
def State.HostTurn (s : State) : Prop :=
  s.phase = .idle ∨ (∃ ts, s.turns = .host :: ts) ∨ (s.turns = [] ∧ s.patience ≠ 0)

/-- A bound on the Host steps that still come before the Core's next step, while PHASE = BUSY: the weak fairness of
the Core (70_reset_and_hazards.md R370). -/
def State.waitBound (s : State) : Nat := s.turns.length + s.patience

/-- Whether the j-th attempt from here on, counted from 0, draws an invertible matrix (42_key_tiler.md R210). -/
def State.attemptAt (s : State) (j : Nat) : Bool :=
  invertible s.n (matOfBytes s.n ((List.range (s.n * s.n)).map fun i => s.nextDraw (j * (s.n * s.n) + i)))

/-- How many of the next k attempts, counted from here on, draw an invertible matrix. -/
def State.successesIn (s : State) (k : Nat) : Nat := (List.range k).countP s.attemptAt

/-! ### The invariant of every run -/

/-- The buffer file: canonical, and only bytes that exist (20_memory.md R81). -/
def State.MemoryOk (s : State) : Prop :=
  s.mem.wf ∧ ∀ x ∈ s.mem, ∃ b o, ByteExists s.cfg b o ∧ x.1 = bufAddr b o

/-- The registers of buffers the configuration does not have stay 0 (10_state.md R43, R44). -/
def State.AbsentOk (s : State) : Prop :=
  ∀ b, s.cfg.nbuf ≤ b → s.dims[b]?.getD 0 = 0 ∧ s.valid.getLsbD b = false

/-- RESULT.INV is 1 exactly when RESULT.DET is odd, and the rest of RESULT is 0 (10_state.md R40). -/
def State.ResultOk (s : State) : Prop :=
  s.result.toNat = (s.result.toNat % 256) + 256 * (s.result.toNat % 2)

/-- PHASE, STATUS and the hidden state agree (10_state.md R36, R50, 40_command_common.md R160, R162). -/
def State.LifecycleOk (s : State) : Prop :=
  s.staged = none ∧
  (s.phase = .busy → s.done = false ∧ s.err = .none ∧ s.rst = false) ∧
  (s.phase = .idle → s.gen = none) ∧
  (s.phase = .idle → s.err.namesTile = false → s.errinfo = 0)

/-- The progress of a running GENKEY is one its own steps can have reached (42_key_tiler.md R210, R211, R216). -/
def State.ProgressOk (s : State) (g : GenProgress) : Prop :=
  ∃ d c, decode s.lcmd = .ok (.genkey d c) ∧ s.Validates (.genkey d c) ∧
    g.tile < s.genCount d c ∧ g.subkeys.length = g.tile ∧
    (∀ k ∈ g.subkeys, k.length = s.n * s.n ∧ invertible s.n (matOfBytes s.n k) = true) ∧
    (s.lmaxatt ≠ 0 → g.attempts < s.lmaxatt.toNat) ∧
    (g.tile + g.attempts ≤ g.total.toNat ∨ g.total = 0xFFFFFFFF)

/-- What holds of every state of every run from power-on. -/
structure State.Inv (s : State) : Prop where
  config : s.cfg.Legal
  memory : s.MemoryOk
  absent : s.AbsentOk
  result : s.ResultOk
  lifecycle : s.LifecycleOk
  progress : ∀ g, s.gen = some g → s.ProgressOk g

/-! ### Safe runs -/

/-- The platform issues no transaction while it holds the reset input asserted (70_reset_and_hazards.md R360, U11):
the reset input is released, or the next input is a level of it. -/
def State.WellDriven (s : State) : Prop :=
  s.rst = false ∨ s.inputs = [] ∨ ∃ level rest, s.inputs = .rst level :: rest

/-- A step is safe when the machine goes on. -/
def State.GoesOn (s : State) : Prop := ∃ t, step s = .next t

end Sys2Proof.Machine
end

