-- ==== Sys2Proof/Certificates/Slice0/Obligations.lean ====
section
/-! DEFINITION. The statements about the HCC, from the numbered rules of spec/. -/

open Sys2Proof Sys2Proof.Machine

/-! ### Encoding -/

/-- Decoding the word of a well-formed command gives the command back, every operand at every value its field
admits (30_encoding.md R121, R125, R129). -/
def Obligations.DecodeInvertsEncode : Prop :=
  ∀ i : Instr, i.WellFormed = true → decode (encode i) = .ok i

/-- A word that decodes is the word of the command it decodes to, and that command is well formed: each command
has one word (30_encoding.md R125, R126). -/
def Obligations.EncodeInvertsDecode : Prop :=
  ∀ (w : Word) (i : Instr), decode w = .ok i → i.WellFormed = true ∧ encode i = w

/-- The decoder agrees with the (match, mask) table of 30_encoding.md R125: it answers the one row with
`w and mask = match`, and no command exactly when no row matches (R126). -/
def Obligations.DecodeFollowsOpcodeTable : Prop :=
  ∀ w : Word,
    (∀ i, decode w = .ok i → w &&& i.maskWord = i.matchWord ∧ (i.matchWord, i.maskWord) ∈ opcodeTable) ∧
    (∀ row ∈ opcodeTable, w &&& row.2 = row.1 →
      (∃ i, decode w = .ok i ∧ (i.matchWord, i.maskWord) = row) ∧
      ∀ row' ∈ opcodeTable, w &&& row'.2 = row'.1 → row' = row) ∧
    ((∀ row ∈ opcodeTable, w &&& row.2 ≠ row.1) ↔ ∃ e, decode w = .error e)

/-- Some words of 95_test_vectors.md V100 to V119, written out from the encoding, decode as the spec lists. -/
def Obligations.ListedWordsDecode : Prop :=
  decode 0b00000000000000000000000000000000 = .ok .nop ∧
  decode 0b00000000000000100000010100000001 = .ok (.mmul 5 0 2) ∧
  decode 0b00000000000000001111000000000010 = .ok (.det 15) ∧
  decode 0b00000000000100000000000100000011 = .ok (.invkey 1 0 true) ∧
  decode 0b00000000000000000000010000000100 = .ok (.genkey 4 false) ∧
  decode 0b00000000000000000000010000000101 = .ok (.tilekey 4 0) ∧
  decode 0b00000000000000000000011000000110 = .ok (.rand 6) ∧
  decode 0b00000000000011111111111100000111 = .ok (.xor 15 15 15) ∧
  decode 0x00000100 = .error .unusedField ∧
  decode 0x000000FF = .error .reservedOpcode ∧
  decode 0x80000001 = .error .reservedBits

/-! ### The step and the command lifecycle -/

/-- When the Core moves and the latched word decodes to a command, the step is that command's meaning, run after
the step's own bookkeeping: the model's step index moves on, a supplied choice of who moves is used up, and the Core's
next delay is a free value (the model's choices: log entries 3 and 9). -/
def Obligations.StepRunsDecodedCommand : Prop :=
  ∀ (s : State) (i : Instr), s.phase = .busy → decode s.lcmd = .ok i → s.CoreTurn →
    step s = exec i { s with
      tick := s.tick + 1, turns := if s.inputs.isEmpty then s.turns else s.turns.tail,
      patience := Config.coreDelay s.tick }

/-- A latched word that is no command completes with ILLEGAL_CMD and changes nothing else (30_encoding.md R127,
60_exceptions.md R321), whether or not the Host has a transaction to come; the bookkeeping of the step is the model's
(log entries 3 and 9). -/
def Obligations.IllegalWordCompletes : Prop :=
  ∀ (s : State) (e : DecodeError), s.phase = .busy → decode s.lcmd = .error e → s.CoreTurn →
    step s = .next ({ s with
      tick := s.tick + 1, turns := if s.inputs.isEmpty then s.turns else s.turns.tail,
      patience := Config.coreDelay s.tick }.failedWith .illegalCmd 0)

/-- A host write to CMD while IDLE is accepted: the word and the four scalars are latched, BUSY set, DONE and ERR
cleared, ERRS and BUSYWR and everything else kept (40_command_common.md R160). The step index and the Core's delay are
the model's own (log entries 3 and 9). -/
def Obligations.CmdWriteIsAccepted : Prop :=
  ∀ (s : State) (v : Word) (rest : List HostOp),
    s.phase = .idle → s.rst = false → s.inputs = .write 0x00000010 .word v :: rest →
    step s = .next { s with
      lcmd := v, ln := s.block, lmaxatt := s.maxatt, ltile := s.tileReg, lzero := s.rngzero,
      phase := .busy, done := false, err := .none,
      inputs := rest, responses := .ok :: s.responses, tick := s.tick + 1, patience := Config.coreDelay s.tick }

/-- Every command but GENKEY is validated, executed and completed in one step of the Core (40_command_common.md
R163): after it PHASE = IDLE and DONE = 1. That exec itself does not look at PHASE is the model's choice (log
entry 16). -/
def Obligations.CommandsCompleteInOneStep : Prop :=
  ∀ (i : Instr) (s : State), (∀ d c, i ≠ .genkey d c) →
    ∃ t, exec i s = .next t ∧ t.phase = .idle ∧ t.done = true ∧ t.staged = none ∧ t.gen = none

/-- The checks run in the order of 60_exceptions.md R329, and the first that fails completes the command with its
code and no other effect (40_command_common.md R161, R162). For a GENKEY the checks are those of its first step. -/
def Obligations.ChecksRunInOrder : Prop :=
  ∀ (i : Instr) (s : State), i ≠ .nop → ((∃ d c, i = .genkey d c) → s.gen = none) →
    ((∃ b ∈ usedBuffers i, s.cfg.nbuf ≤ b) → exec i s = .next (s.failedWith .badBuffer 0)) ∧
    ((∀ b ∈ usedBuffers i, b < s.cfg.nbuf) → ¬ s.BlockLegal → exec i s = .next (s.failedWith .badBlock 0)) ∧
    ((∀ b ∈ usedBuffers i, b < s.cfg.nbuf) → s.BlockLegal → (∃ b ∈ sourceBuffers i, s.isValid b = false) →
      exec i s = .next (s.failedWith .unwritten 0)) ∧
    ((∀ b ∈ usedBuffers i, b < s.cfg.nbuf) → s.BlockLegal → (∀ b ∈ sourceBuffers i, s.isValid b = true) →
      ¬ s.DimsPass i → exec i s = .next (s.failedWith .dimMismatch 0)) ∧
    (∀ a, i = .det a → s.Validates i → ¬ s.TileInRange a → exec i s = .next (s.failedWith .badTile 0))

/-- Errors are precise: after a completion with ERR ≠ 0 the state is as before but for STATUS, ERRINFO, RESULT
(INVKEY at NON_INVERTIBLE only), ATTEMPTS (GENKEY at GEN_EXHAUSTED only) and the hidden state; only GENKEY has
used draws (60_exceptions.md R332). -/
def Obligations.ErrorsArePrecise : Prop :=
  ∀ (i : Instr) (s t : State), s.phase = .busy → exec i s = .next t → t.phase = .idle → t.err ≠ .none →
    t = { s.failedWith t.err t.errinfo with
          result := t.result, attempts := t.attempts, entropy := t.entropy, draws := t.draws } ∧
    (t.err ≠ .nonInvertible → t.result = s.result) ∧
    (t.err = .nonInvertible → ∃ d a c, i = .invkey d a c) ∧
    (t.err ≠ .genExhausted → t.attempts = s.attempts ∧ t.entropy = s.entropy ∧ t.draws = s.draws) ∧
    (t.err = .genExhausted → ∃ d c, i = .genkey d c) ∧
    (t.err.namesTile = false → t.errinfo = 0)

/-- Only DET and INVKEY write RESULT (10_state.md R40), only GENKEY writes ATTEMPTS (R41), and only the commands
with a destination change a byte, a descriptor or a VALID bit (40_command_common.md R172). -/
def Obligations.RegistersHaveTheirWriters : Prop :=
  ∀ (i : Instr) (s t : State), s.staged = none → exec i s = .next t →
    (t.result ≠ s.result → (∃ a, i = .det a) ∨ ∃ d a c, i = .invkey d a c) ∧
    (t.attempts ≠ s.attempts → ∃ d c, i = .genkey d c) ∧
    (destination i = none → t.mem = s.mem ∧ t.dims = s.dims ∧ t.valid = s.valid)

/-! ### NOP and DET -/

/-- NOP completes and changes only the lifecycle fields (40_command_common.md R170). -/
def Obligations.NopOnlyCompletes : Prop :=
  ∀ s : State, s.staged = none → exec .nop s = .next s.finished

/-- DET reports the determinant mod 256 of tile LTILE and its parity, and changes nothing but RESULT and the
lifecycle fields (41_invertibility.md R194). -/
def Obligations.DetReportsDeterminant : Prop :=
  ∀ (a : Nat) (s : State), s.staged = none → s.Validates (.det a) → s.TileInRange a →
    ∃ t, exec (.det a) s = .next t ∧
      t = { s.finished with result := t.result } ∧
      t.result.toNat = (detMod s.n (s.tile a (highHalf s.ltile) (lowHalf s.ltile))).toNat
        + 256 * ((detMod s.n (s.tile a (highHalf s.ltile) (lowHalf s.ltile))).toNat % 2)

/-! ### MMUL and XOR -/

/-- MMUL stores, in every tile of the destination, the key tile times the channel tile mod 256; the destination
takes the channel's dimensions and becomes written (43_block_multiply.md R241). -/
def Obligations.MmulStoresProducts : Prop :=
  ∀ (d a b : Nat) (s : State), s.cfg.Legal → s.Validates (.mmul d a b) →
    ∃ t, exec (.mmul d a b) s = .next t ∧ t.FinishedFrom s ∧ t.result = s.result ∧ t.attempts = s.attempts ∧
      t.dim d = s.dim b ∧ t.isValid d = true ∧
      t.HoldsTiles d fun p q => mulMod s.n (s.tile a p q) (s.tile b p q)

/-- XOR stores the bytewise exclusive or of the two source grids; the destination takes the first source's
dimensions and becomes written (44_mask.md R262, R263). -/
def Obligations.XorStoresBytewise : Prop :=
  ∀ (d a b : Nat) (s : State), s.cfg.Legal → s.Validates (.xor d a b) →
    ∃ t, exec (.xor d a b) s = .next t ∧ t.FinishedFrom s ∧ t.result = s.result ∧ t.attempts = s.attempts ∧
      t.dim d = s.dim a ∧ t.isValid d = true ∧
      (∀ o, o < s.width a * s.height a → t.mem.read (bufAddr d o) = some (s.readBuf a o ^^^ s.readBuf b o)) ∧
      t.HoldsTiles d fun p q => xorTile (s.tile a p q) (s.tile b p q)

/-! ### INVKEY -/

/-- INVKEY with C = 0 stores the inverse of tile (0,0) in every tile, when that tile's determinant is odd
(45_inverter.md R284). -/
def Obligations.InvkeyCopiesFirstInverse : Prop :=
  ∀ (d a : Nat) (s : State), s.cfg.Legal → s.Validates (.invkey d a false) →
    (detMod s.n (s.tile a 0 0)).toNat % 2 = 1 →
    ∃ t, exec (.invkey d a false) s = .next t ∧ t.FinishedFrom s ∧ t.attempts = s.attempts ∧
      t.result.toNat = 256 + (detMod s.n (s.tile a 0 0)).toNat ∧
      t.dim d = s.dim a ∧ t.isValid d = true ∧
      t.HoldsTiles d fun _ _ => invMod s.n (s.tile a 0 0)

/-- INVKEY with C = 1 stores each tile's own inverse, when every tile's determinant is odd (45_inverter.md R284). -/
def Obligations.InvkeyInvertsEveryTile : Prop :=
  ∀ (d a : Nat) (s : State), s.cfg.Legal → s.Validates (.invkey d a true) →
    (∀ p q, p < s.tileRows a → q < s.tileCols a → (detMod s.n (s.tile a p q)).toNat % 2 = 1) →
    ∃ t, exec (.invkey d a true) s = .next t ∧ t.FinishedFrom s ∧ t.attempts = s.attempts ∧
      t.result.toNat = 256 + (detMod s.n (s.tile a 0 0)).toNat ∧
      t.dim d = s.dim a ∧ t.isValid d = true ∧
      t.HoldsTiles d fun p q => invMod s.n (s.tile a p q)

/-- INVKEY fails with NON_INVERTIBLE at the first tile it examines, in block order, whose determinant is even:
ERRINFO names it, RESULT holds its determinant with INV = 0, nothing is committed (45_inverter.md R284,
60_exceptions.md R327). -/
def Obligations.InvkeyNamesFirstSingularTile : Prop :=
  ∀ (d a p q : Nat) (c : Bool) (s : State), s.Validates (.invkey d a c) →
    p < s.tileRows a → q < s.tileCols a → (c = false → p = 0 ∧ q = 0) →
    (detMod s.n (s.tile a p q)).toNat % 2 = 0 →
    (∀ p' q', p' < s.tileRows a → q' < s.tileCols a → (p' < p ∨ (p' = p ∧ q' < q)) →
      (detMod s.n (s.tile a p' q')).toNat % 2 = 1) →
    ∃ t, exec (.invkey d a c) s = .next t ∧
      t = { s.failedWith .nonInvertible t.errinfo with result := t.result } ∧
      highHalf t.errinfo = p ∧ lowHalf t.errinfo = q ∧
      t.result.toNat = (detMod s.n (s.tile a p q)).toNat

/-! ### GENKEY and TILEKEY -/

/-- The first step of a GENKEY that passes validation only starts the search: no tile, no attempt, nothing found
(42_key_tiler.md R216, 40_command_common.md R163). -/
def Obligations.GenkeyStartsSearch : Prop :=
  ∀ (d : Nat) (c : Bool) (s : State), s.gen = none → s.Validates (.genkey d c) →
    exec (.genkey d c) s = .next { s with gen := some ⟨0, 0, 0, []⟩ }

/-- A successful attempt for the last sub-key completes the GENKEY: with C = 1 tile (p, q) is the sub-key found
for it in block order, with C = 0 every tile is the one sub-key; ATTEMPTS is the total, DIM[D] is kept, D becomes
written (42_key_tiler.md R216). -/
def Obligations.GenkeyCommitsSubkeys : Prop :=
  ∀ (d : Nat) (c : Bool) (s : State) (g : GenProgress), s.cfg.Legal → s.Validates (.genkey d c) →
    s.gen = some g → g.tile + 1 = s.genCount d c →
    invertible s.n (matOfBytes s.n (s.drawBytes (s.n * s.n))) = true →
    ∃ t, exec (.genkey d c) s = .next t ∧ t.FinishedFrom s ∧ t.result = s.result ∧
      t.attempts.toNat = min (g.total.toNat + 1) 0xFFFFFFFF ∧
      t.entropy = (s.afterDraws (s.n * s.n)).entropy ∧ t.draws = (s.afterDraws (s.n * s.n)).draws ∧
      t.dim d = s.dim d ∧ t.isValid d = true ∧
      t.HoldsTiles d fun p q => matOfBytes s.n
        ((g.subkeys ++ [s.drawBytes (s.n * s.n)]).getD (if c then p * s.tileCols d + q else 0) [])

/-- An attempt that does not end the command moves the search on and nothing else: a success goes to the next
tile, a failure below the ceiling repeats the same tile (42_key_tiler.md R216). -/
def Obligations.GenkeySearchGoesOn : Prop :=
  ∀ (d : Nat) (c : Bool) (s : State) (g : GenProgress), s.gen = some g →
    (invertible s.n (matOfBytes s.n (s.drawBytes (s.n * s.n))) = true → g.tile + 1 ≠ s.genCount d c →
      ∃ t, exec (.genkey d c) s = .next t ∧ t = { s.afterDraws (s.n * s.n) with gen := t.gen } ∧
        ∃ g', t.gen = some g' ∧ g'.tile = g.tile + 1 ∧ g'.attempts = 0 ∧
          g'.total.toNat = min (g.total.toNat + 1) 0xFFFFFFFF ∧
          g'.subkeys = g.subkeys ++ [s.drawBytes (s.n * s.n)]) ∧
    (invertible s.n (matOfBytes s.n (s.drawBytes (s.n * s.n))) = false →
      (s.lmaxatt = 0 ∨ g.attempts + 1 ≠ s.lmaxatt.toNat) →
      ∃ t, exec (.genkey d c) s = .next t ∧ t = { s.afterDraws (s.n * s.n) with gen := t.gen } ∧
        ∃ g', t.gen = some g' ∧ g'.tile = g.tile ∧ g'.attempts = g.attempts + 1 ∧
          g'.total.toNat = min (g.total.toNat + 1) 0xFFFFFFFF ∧ g'.subkeys = g.subkeys)

/-- The attempt that reaches LMAXATT without success ends the GENKEY with GEN_EXHAUSTED: ATTEMPTS is the total,
ERRINFO names the tile, nothing is committed (42_key_tiler.md R211, R216, 60_exceptions.md R328). -/
def Obligations.GenkeyExhausts : Prop :=
  ∀ (d : Nat) (c : Bool) (s : State) (g : GenProgress), s.cfg.Legal → s.Validates (.genkey d c) →
    s.gen = some g → g.tile < s.genCount d c → s.lmaxatt ≠ 0 → g.attempts + 1 = s.lmaxatt.toNat →
    invertible s.n (matOfBytes s.n (s.drawBytes (s.n * s.n))) = false →
    ∃ t, exec (.genkey d c) s = .next t ∧
      t = { (s.afterDraws (s.n * s.n)).failedWith .genExhausted t.errinfo with attempts := t.attempts } ∧
      t.attempts.toNat = min (g.total.toNat + 1) 0xFFFFFFFF ∧
      highHalf t.errinfo * s.tileCols d + lowHalf t.errinfo = g.tile ∧ lowHalf t.errinfo < s.tileCols d

/-- TILEKEY copies tile (0,0) of the source over every tile of the destination, whose dimensions it keeps
(42_key_tiler.md R220). -/
def Obligations.TilekeyRepeatsSubkey : Prop :=
  ∀ (d a : Nat) (s : State), s.cfg.Legal → s.Validates (.tilekey d a) →
    ∃ t, exec (.tilekey d a) s = .next t ∧ t.FinishedFrom s ∧ t.result = s.result ∧ t.attempts = s.attempts ∧
      t.dim d = s.dim d ∧ t.isValid d = true ∧ t.HoldsTiles d fun _ _ => s.tile a 0 0

/-! ### RAND and the draws -/

/-- RAND stores its draws in offset order, keeps the destination's dimensions and makes it written
(44_mask.md R260, R261). -/
def Obligations.RandStoresDraws : Prop :=
  ∀ (d : Nat) (s : State), s.cfg.Legal → s.Validates (.rand d) →
    ∃ t, exec (.rand d) s = .next t ∧ t.FinishedFrom s ∧ t.result = s.result ∧ t.attempts = s.attempts ∧
      t.entropy = (s.afterDraws (s.width d * s.height d)).entropy ∧
      t.draws = (s.afterDraws (s.width d * s.height d)).draws ∧
      t.dim d = s.dim d ∧ t.isValid d = true ∧
      ∀ o, o < s.width d * s.height d →
        t.mem.read (bufAddr d o) = (s.drawBytes (s.width d * s.height d))[o]?

/-- While LZERO = 1 every draw is 0 and the source is not consulted; while LZERO = 0 the bytes the source supplies
are used once each, in order (10_state.md R52). That they come from a list in State is the model's choice (log
entry 4). -/
def Obligations.DrawsComeInOrder : Prop :=
  ∀ (s : State) (k : Nat),
    (s.lzero = true → s.drawBytes k = List.replicate k 0 ∧ s.afterDraws k = s) ∧
    (∀ bytes rest : List Byte, s.lzero = false → s.entropy = bytes ++ rest → bytes.length = k →
      s.drawBytes k = bytes ∧ (s.afterDraws k).entropy = rest)

/-! ### What stays unchanged -/

/-- Frame of the commands that store a grid and draw nothing (MMUL, XOR, TILEKEY, INVKEY): only the grid bytes of
the destination, its descriptor and VALID bit, the lifecycle fields and, for INVKEY, RESULT may change. -/
def Obligations.GridCommandsFrame : Prop :=
  ∀ (i : Instr) (d : Nat) (s t : State),
    ((∃ a b, i = .mmul d a b) ∨ (∃ a b, i = .xor d a b) ∨ (∃ a, i = .tilekey d a) ∨ ∃ a c, i = .invkey d a c) →
    exec i s = .next t →
    t = { s with
          mem := t.mem, dims := t.dims, valid := t.valid, result := t.result, errinfo := t.errinfo, err := t.err,
          errs := t.errs, phase := t.phase, done := t.done, gen := t.gen, staged := t.staged } ∧
    ((∀ a c, i ≠ .invkey d a c) → t.result = s.result) ∧
    (∀ b, b ≠ d → t.dim b = s.dim b ∧ t.isValid b = s.isValid b) ∧
    (∀ x, (∀ o, o < storedCount s i → x ≠ bufAddr d o) → t.mem.read x = s.mem.read x)

/-- Frame of the commands that draw (GENKEY, RAND): the grid bytes, descriptor and VALID bit of the destination,
the lifecycle fields and the source's bytes may change, and ATTEMPTS for GENKEY; every descriptor keeps its
value. -/
def Obligations.DrawingCommandsFrame : Prop :=
  ∀ (i : Instr) (d : Nat) (s t : State), ((∃ c, i = .genkey d c) ∨ i = .rand d) → exec i s = .next t →
    t = { s with
          mem := t.mem, dims := t.dims, valid := t.valid, attempts := t.attempts, errinfo := t.errinfo,
          err := t.err, errs := t.errs, phase := t.phase, done := t.done, gen := t.gen, staged := t.staged,
          entropy := t.entropy, draws := t.draws } ∧
    (i = .rand d → t.attempts = s.attempts) ∧
    (∀ b, t.dim b = s.dim b) ∧ (∀ b, b ≠ d → t.isValid b = s.isValid b) ∧
    (∀ x, (∀ o, o < storedCount s i → x ≠ bufAddr d o) → t.mem.read x = s.mem.read x)

/-- Frame of the commands that store nothing (NOP, DET): all of memory, every descriptor and every VALID bit keep
their values; only the lifecycle fields and, for DET, RESULT may change. -/
def Obligations.StorelessCommandsFrame : Prop :=
  ∀ (i : Instr) (s t : State), s.staged = none → (i = .nop ∨ ∃ a, i = .det a) → exec i s = .next t →
    t = { s with
          result := t.result, errinfo := t.errinfo, err := t.err, errs := t.errs, phase := t.phase,
          done := t.done, gen := t.gen, staged := t.staged } ∧
    (i = .nop → t.result = s.result)

/-- No command reads a byte outside the grids of the buffers (10_state.md R47): two states that differ only in
such bytes end alike, in registers, hidden state and every grid. -/
def Obligations.CommandsIgnoreBytesOutsideGrids : Prop :=
  ∀ (i : Instr) (s t : State) (m : Memory), s.cfg.Legal → s.staged = none → exec i s = .next t →
    (∀ b o, b < s.cfg.nbuf → o < s.width b * s.height b →
      m.read (bufAddr b o) = s.mem.read (bufAddr b o)) →
    ∃ t', exec i { s with mem := m } = .next t' ∧ t' = { t with mem := t'.mem } ∧
      ∀ b o, b < s.cfg.nbuf → o < t.width b * t.height b → o < s.cfg.bufBytes →
        t'.mem.read (bufAddr b o) = t.mem.read (bufAddr b o)

/-! ### Arithmetic -/

/-- `DetMod(M)` is the sum over permutations of signed products over ℤ, reduced mod 256, for every n and every
matrix of bytes (41_invertibility.md R190). -/
def Obligations.DetModIsSignedPermutationSum : Prop :=
  (∀ (n : Nat) (m : Mat),
    ((detMod n m).toNat : Int)
      = (∑ σ : Equiv.Perm (Fin n), (Equiv.Perm.sign σ : Int) * ∏ a : Fin n, ((m a (σ a)).toNat : Int)) % 256) ∧
  (∀ m : Mat, m 0 0 = 3 → m 0 1 = 5 → m 1 0 = 7 → m 1 1 = 11 → detZ 2 m.toZ = -2 ∧ detMod 2 m = 254)

/-- The test gcd(DetMod, 256) = 1 holds exactly when DetMod is odd, and exactly when the determinant over ℤ is odd
(41_invertibility.md R191). -/
def Obligations.InvertibleExactlyWhenOdd : Prop :=
  (∀ (n : Nat) (m : Mat),
    (invertible n m = true ↔ Nat.gcd (detMod n m).toNat 256 = 1) ∧
    (invertible n m = true ↔ (detMod n m).toNat % 2 = 1) ∧
    (invertible n m = true ↔ detZ n m.toZ % 2 = 1)) ∧
  ∀ x : Int, Int.gcd x 256 = Int.gcd (x % 256) 256

/-- The product is the exact sum over ℤ reduced once, below 2^24 for every legal n, and an accumulator that wraps
mod 2^k for any k ≥ 8 gives the same byte (43_block_multiply.md R240). -/
def Obligations.ProductIsExactSumReduced : Prop :=
  ∀ (n k : Nat) (x y : Mat) (a c : Nat),
    (mulMod n x y a c).toNat = (∑ j ∈ Finset.range n, (x a j).toNat * (y j c).toNat) % 256 ∧
    (∑ j ∈ Finset.range n, (x a j).toNat * (y j c).toNat) ≤ n * 65025 ∧
    (n ≤ 255 → n * 65025 ≤ 16581375 ∧ 16581375 < 2 ^ 24) ∧
    (8 ≤ k → ((∑ j ∈ Finset.range n, (x a j).toNat * (y j c).toNat) % 2 ^ k) % 256 = (mulMod n x y a c).toNat)

/-- The byte inverse of every odd byte is odd and inverts it mod 256, and no other byte does (45_inverter.md R281). -/
def Obligations.OddBytesHaveOneInverse : Prop :=
  ∀ d x : Byte, d.toNat % 2 = 1 → (d.toNat * x.toNat % 256 = 1 ↔ x = byteInverse d)

/-- InvMod(M) is the one two-sided inverse of M mod 256, and M has one exactly when DetMod(M) is odd
(45_inverter.md R280). -/
def Obligations.InverseIsUniqueAndTwoSided : Prop :=
  ∀ (n : Nat) (m : Mat), 1 ≤ n →
    ((detMod n m).toNat % 2 = 1 →
      MatEq n (mulMod n m (invMod n m)) identityMat ∧ MatEq n (mulMod n (invMod n m) m) identityMat ∧
      ∀ y : Mat, MatEq n (mulMod n m y) identityMat → MatEq n y (invMod n m)) ∧
    ((∃ y : Mat, MatEq n (mulMod n m y) identityMat) → (detMod n m).toNat % 2 = 1)

/-- The matrix layer round trip: multiplying by the inverse undoes multiplying by the key, tile by tile
(43_block_multiply.md R244). -/
def Obligations.InverseUndoesProduct : Prop :=
  ∀ (n : Nat) (k x : Mat), 1 ≤ n → (detMod n k).toNat % 2 = 1 →
    MatEq n (mulMod n (invMod n k) (mulMod n k x)) x

/-! ### Promises about whole commands -/

/-- Every tile of a GENKEY result has an odd determinant mod 256 (42_key_tiler.md R217). -/
def Obligations.GenkeyTilesAreInvertible : Prop :=
  ∀ (d : Nat) (c : Bool) (s t : State), s.Inv → s.phase = .busy → decode s.lcmd = .ok (.genkey d c) →
    exec (.genkey d c) s = .next t → t.phase = .idle → t.err = .none →
    ∀ p q, p < t.tileRows d → q < t.tileCols d → (detMod t.n (t.tile d p q)).toNat % 2 = 1

/-- After a GENKEY with C = 0 every tile equals tile (0,0), and ATTEMPTS counts at least one attempt for each
sub-key (42_key_tiler.md R218, R219). -/
def Obligations.GenkeyTilingAndAttempts : Prop :=
  ∀ (d : Nat) (c : Bool) (s t : State), s.Inv → s.phase = .busy → decode s.lcmd = .ok (.genkey d c) →
    exec (.genkey d c) s = .next t → t.phase = .idle → t.err = .none →
    (c = false → 1 ≤ t.attempts.toNat ∧
      ∀ p q, p < t.tileRows d → q < t.tileCols d → MatEq t.n (t.tile d p q) (t.tile d 0 0)) ∧
    (c = true → t.tileRows d * t.tileCols d ≤ t.attempts.toNat)

/-- With LZERO = 1 and LMAXATT = 0 a running GENKEY never completes: the Core steps for ever (42_key_tiler.md R212,
70_reset_and_hazards.md R372). -/
def Obligations.ZeroDrawSearchNeverEnds : Prop :=
  ∀ (s : State) (g : GenProgress) (k : Nat), s.Inv → s.gen = some g → s.inputs = [] →
    s.lzero = true → s.lmaxatt = 0 →
    ∃ t, Host.Core.run core k s = .next t ∧ t.phase = .busy ∧ t.done = false ∧ t.mem = s.mem

/-- A running GENKEY ends when it has a ceiling, whatever is drawn, or when some attempt of each sub-key still missing
succeeds (42_key_tiler.md R211, 70_reset_and_hazards.md R370): whatever the Host does meanwhile, PHASE = IDLE is reached,
and with the Host silent that is a completion, without error or, at a ceiling, with GEN_EXHAUSTED. -/
def Obligations.BoundedSearchEnds : Prop :=
  ∀ (d : Nat) (c : Bool) (s : State) (g : GenProgress), s.Inv → decode s.lcmd = .ok (.genkey d c) → s.gen = some g →
    (s.lmaxatt ≠ 0 ∨ ∃ k, s.genCount d c ≤ g.tile + s.successesIn k) →
    (∃ k t, Host.Core.run core k s = .next t ∧ t.phase = .idle) ∧
    (s.inputs = [] → ∃ k t, Host.Core.run core k s = .next t ∧ t.phase = .idle ∧ t.done = true ∧
      (t.err = .none ∨ (t.err = .genExhausted ∧ s.lmaxatt ≠ 0)))

/-- The inversion law (45_inverter.md R285): after INVKEY without error, with C = 1 or every tile of the key equal
to its tile (0,0), each tile of the result and the key's tile multiply to the identity, both ways. -/
def Obligations.InvkeyResultInverts : Prop :=
  ∀ (d a : Nat) (c : Bool) (s t : State), s.cfg.Legal → exec (.invkey d a c) s = .next t → t.err = .none →
    (c = false → ∀ p q, p < s.tileRows a → q < s.tileCols a → MatEq s.n (s.tile a p q) (s.tile a 0 0)) →
    ∀ p q, p < s.tileRows a → q < s.tileCols a →
      MatEq s.n (mulMod s.n (t.tile d p q) (s.tile a p q)) identityMat ∧
      MatEq s.n (mulMod s.n (s.tile a p q) (t.tile d p q)) identityMat

/-- The mask layer round trip (44_mask.md R264): XOR with a mask twice gives the channel back, byte for byte. The
mask's bytes have been written: a byte never written may read differently each time (10_state.md R56). -/
def Obligations.MaskTwiceIsIdentity : Prop :=
  ∀ (t' m x u : Nat) (s s1 s2 : State), s.cfg.Legal → s.GridWritten m → t' ≠ m →
    exec (.xor t' m x) s = .next s1 → s1.err = .none →
    exec (.xor u m t') s1 = .next s2 → s2.err = .none →
    ∀ o, o < s.width x * s.height x → s2.mem.read (bufAddr u o) = some (s.readBuf x o)

/-- Decryption undoes encryption (46_protocols.md R303), on distinct buffers whose key, mask and channel have been
written: multiply by the key, mask, unmask, invert the key, multiply by the inverse; every command without error.
INVKEY runs with C = 1, or with C = 0 on a key whose tiles are all equal to its tile (0,0). -/
def Obligations.DecryptionUndoesEncryption : Prop :=
  ∀ (k p m t e u ki r : Nat) (c : Bool) (s s1 s2 s3 s4 s5 : State), s.Inv →
    [k, p, m, t, e, u, ki, r].Nodup → s.GridWritten k → s.GridWritten p → s.GridWritten m →
    (c = false → ∀ i j, i < s.tileRows k → j < s.tileCols k → MatEq s.n (s.tile k i j) (s.tile k 0 0)) →
    exec (.mmul t k p) s = .next s1 → s1.err = .none →
    exec (.xor e m t) s1 = .next s2 → s2.err = .none →
    exec (.xor u m e) s2 = .next s3 → s3.err = .none →
    exec (.invkey ki k c) s3 = .next s4 → s4.err = .none →
    exec (.mmul r ki u) s4 = .next s5 → s5.err = .none →
    ∀ o, o < s.width p * s.height p → s5.mem.read (bufAddr r o) = s.mem.read (bufAddr p o)

/-! ### The host port -/

/-- A transaction that gets a bus error changes nothing but the Host's own view: no register, byte, VALID bit or
BUSYWR, and the Host sees the error and no data. Which ones get it: a register access not 4 bytes wide or not
aligned, an address in neither region, a misaligned or partly absent buffer access (20_memory.md R80, R84, R85,
R86). The fields `inputs` and `responses` that hold the Host's view are the model's own (log entries 9 and 17). -/
def Obligations.BusErrorsChangeNothing : Prop :=
  ∀ (s : State) (addr : Word) (size : AccessSize) (v : Word) (rest : List HostOp),
    ((addr.toNat < 0x1000 ∧ (size ≠ .word ∨ addr.toNat % 4 ≠ 0)) ∨
      (0x1000 ≤ addr.toNat ∧ addr.toNat < 0x01000000) ∨ 0x02000000 ≤ addr.toNat ∨
      (0x01000000 ≤ addr.toNat ∧ addr.toNat < 0x02000000 ∧ addr.toNat % size.bytes ≠ 0) ∨
      (0x01000000 ≤ addr.toNat ∧ addr.toNat < 0x02000000 ∧
        ∃ j, j < size.bytes ∧ ¬ (((addr.toNat + j) / 0x00100000) % 16 < s.cfg.nbuf
          ∧ (addr.toNat + j) % 0x00100000 < s.cfg.bufBytes))) →
    s.memWrite addr size v = s ∧
    s.transact (.write addr size v) rest = { s with inputs := rest, responses := .busError :: s.responses } ∧
    s.transact (.read addr size) rest = { s with inputs := rest, responses := .busError :: s.responses }

/-- A host read is answered what memRead gives and has no side effect (20_memory.md R90): it changes nothing but the
Host's own view. A host write is memWrite, answered what memWriteResponse gives. Both see the machine as the step
begins, which differs only in the step index and the choice of who moves (the model's own fields: log entries 3, 9 and
17). -/
def Obligations.ReadsHaveNoSideEffect : Prop :=
  ∀ (s : State) (op : HostOp) (rest : List HostOp), s.inputs = op :: rest → s.rst = false → s.HostTurn →
    s.beginStep = { s with
      tick := s.tick + 1, turns := s.beginStep.turns, patience := s.beginStep.patience } ∧
    (∀ addr size, op = .read addr size →
      step s = .next { s.beginStep with
        inputs := rest, responses := s.beginStep.memRead addr size :: s.responses }) ∧
    (∀ addr size v, op = .write addr size v →
      step s = .next { s.beginStep.memWrite addr size v with
        inputs := rest, responses := s.beginStep.memWriteResponse addr size :: s.responses })

/-- A buffer write while IDLE stores the data bytes little-endian at the address, sets VALID[b], and changes no other
byte, no descriptor and no other register; a read of the same size then returns the data (20_memory.md R87 to
R89). That the bits of `v` above the size are ignored is the model's convention (log entry 17). -/
def Obligations.BufferWritesReadBack : Prop :=
  ∀ (s : State) (b o : Nat) (size : AccessSize) (v : Word), s.cfg.Legal → s.phase = .idle → b < s.cfg.nbuf →
    o % size.bytes = 0 → o + size.bytes ≤ s.cfg.bufBytes →
    (∀ j, j < size.bytes →
      (s.memWrite (BitVec.ofNat 32 (bufAddr b o)) size v).mem.read (bufAddr b (o + j))
        = some (v.extractLsb' (8 * j) 8)) ∧
    (∀ x, (∀ j, j < size.bytes → x ≠ bufAddr b (o + j)) →
      (s.memWrite (BitVec.ofNat 32 (bufAddr b o)) size v).mem.read x = s.mem.read x) ∧
    (s.memWrite (BitVec.ofNat 32 (bufAddr b o)) size v).isValid b = true ∧
    (∀ x, x ≠ b → (s.memWrite (BitVec.ofNat 32 (bufAddr b o)) size v).isValid x = s.isValid x) ∧
    s.memWrite (BitVec.ofNat 32 (bufAddr b o)) size v
      = { s with
          mem := (s.memWrite (BitVec.ofNat 32 (bufAddr b o)) size v).mem
          valid := (s.memWrite (BitVec.ofNat 32 (bufAddr b o)) size v).valid } ∧
    (s.memWrite (BitVec.ofNat 32 (bufAddr b o)) size v).memRead (BitVec.ofNat 32 (bufAddr b o)) size
      = .data (BitVec.ofNat 32 (v.toNat % 2 ^ (8 * size.bytes)))

/-- While BUSY = 1 a host write to CMD, BLOCK, MAXATT, TILE, VALID, a DIM register or an existing buffer byte only
sets BUSYWR, and a write to a read-only register or an unlisted offset does nothing, busy or not
(10_state.md R49, 20_memory.md R82). That a DIM register of an absent buffer counts here is the model's reading
(log entry 11). -/
def Obligations.BusyWritesAreDropped : Prop :=
  ∀ (s : State) (addr : Word) (v : Word),
    (s.phase = .busy → addr.toNat % 4 = 0 →
      (addr.toNat = 0x10 ∨ addr.toNat = 0x14 ∨ addr.toNat = 0x18 ∨ addr.toNat = 0x1C ∨ addr.toNat = 0x2C ∨
        (0x40 ≤ addr.toNat ∧ addr.toNat < 0x80)) →
      s.memWrite addr .word v = { s with busywr := true } ∧ s.memWriteResponse addr .word = .ok) ∧
    (∀ size, s.phase = .busy → 0x01000000 ≤ addr.toNat → addr.toNat < 0x02000000 → addr.toNat % size.bytes = 0 →
      (∀ j, j < size.bytes → (addr.toNat / 0x00100000) % 16 < s.cfg.nbuf ∧
        addr.toNat % 0x00100000 + j < s.cfg.bufBytes) →
      s.memWrite addr size v = { s with busywr := true } ∧ s.memWriteResponse addr size = .ok) ∧
    (addr.toNat % 4 = 0 → addr.toNat < 0x1000 →
      (addr.toNat = 0 ∨ addr.toNat = 4 ∨ (0x20 ≤ addr.toNat ∧ addr.toNat < 0x2C) ∨
        (0x30 ≤ addr.toNat ∧ addr.toNat < 0x40) ∨ 0x80 ≤ addr.toNat) →
      s.memWrite addr .word v = s ∧ s.memWriteResponse addr .word = .ok)

/-- WAIT reads STATUS, once a step: it goes on to the Host's next operation when it reads BUSY = 0, and polls again
when it reads BUSY = 1 (30_encoding.md R130). One read a step is the model's reading (log entry 13), and the rest of
the step's bookkeeping is the model's own (log entries 3 and 9). -/
def Obligations.WaitPollsUntilIdle : Prop :=
  ∀ (s : State) (rest : List HostOp), s.inputs = .wait :: rest → s.rst = false →
    (s.phase = .idle → step s = .next { s with
      inputs := rest, responses := .data s.statusWord :: s.responses, tick := s.tick + 1,
      patience := Config.coreDelay s.tick }) ∧
    (s.phase = .busy → s.HostTurn → step s = .next { s with
      responses := .data s.statusWord :: s.responses, turns := s.turns.tail, tick := s.tick + 1,
      patience := s.patience - 1 })

/-- While BUSY = 1 no step of the Host changes what the running command reads or has found. It can only end the
command, and only by a soft reset (a CTRL write with SRST = 1, which is then all that the write does) or by the reset
input (10_state.md R49, R50, 20_memory.md R91, 70_reset_and_hazards.md R360, R362). -/
def Obligations.HostCannotDisturbCommand : Prop :=
  ∀ (s t : State), s.phase = .busy → hostStep s = .next t →
    (t.phase = .idle ∧ ∃ v rest, s.inputs = .write 0x00000008 .word v :: rest ∧ v.getLsbD 2 = true ∧
      t = { s.memWrite 0x00000008 .word v with inputs := rest, responses := .ok :: s.responses }) ∨
    (t.phase = .idle ∧ ∃ level rest, s.inputs = .rst level :: rest ∧ (level = true ∨ s.rst = true)) ∨
    (t.phase = .busy ∧ t.cfg = s.cfg ∧ t.mem = s.mem ∧ t.dims = s.dims ∧ t.valid = s.valid ∧
      t.lcmd = s.lcmd ∧ t.ln = s.ln ∧ t.lmaxatt = s.lmaxatt ∧ t.ltile = s.ltile ∧ t.lzero = s.lzero ∧
      t.gen = s.gen ∧ t.staged = s.staged ∧ t.result = s.result ∧ t.attempts = s.attempts ∧
      t.errinfo = s.errinfo ∧ t.block = s.block ∧ t.maxatt = s.maxatt ∧ t.tileReg = s.tileReg ∧
      t.entropy = s.entropy ∧ t.draws = s.draws)

/-- While IDLE, a write to DIM[b] for b < NBUF sets the descriptor and clears VALID[b] and nothing else; for
b ≥ NBUF it is ignored and the register reads 0 (10_state.md R44). -/
def Obligations.DimWriteClearsValid : Prop :=
  ∀ (s : State) (b : Nat) (v : Word), s.cfg.Legal → s.phase = .idle → b < 16 →
    (b < s.cfg.nbuf →
      (s.memWrite (BitVec.ofNat 32 (0x40 + 4 * b)) .word v).dim b = v ∧
      (s.memWrite (BitVec.ofNat 32 (0x40 + 4 * b)) .word v).isValid b = false ∧
      (∀ x, x ≠ b → (s.memWrite (BitVec.ofNat 32 (0x40 + 4 * b)) .word v).dim x = s.dim x ∧
        (s.memWrite (BitVec.ofNat 32 (0x40 + 4 * b)) .word v).isValid x = s.isValid x) ∧
      s.memWrite (BitVec.ofNat 32 (0x40 + 4 * b)) .word v
        = { s with
            dims := (s.memWrite (BitVec.ofNat 32 (0x40 + 4 * b)) .word v).dims
            valid := (s.memWrite (BitVec.ofNat 32 (0x40 + 4 * b)) .word v).valid }) ∧
    (s.cfg.nbuf ≤ b →
      s.memWrite (BitVec.ofNat 32 (0x40 + 4 * b)) .word v = s ∧
      s.memRead (BitVec.ofNat 32 (0x40 + 4 * b)) .word = .data 0)

/-- While IDLE, a write to VALID clears exactly the bits written 1 and changes nothing else (10_state.md R43). -/
def Obligations.ValidIsWriteOneToClear : Prop :=
  ∀ (s : State) (v : Word), s.phase = .idle →
    s.memWrite 0x0000002C .word v = { s with valid := (s.memWrite 0x0000002C .word v).valid } ∧
    ∀ b, b < 16 → (s.memWrite 0x0000002C .word v).isValid b = (s.isValid b && !v.getLsbD b)

/-- While IDLE, BLOCK keeps the low byte of what is written, legal or not, and MAXATT and TILE the whole word; each
reads back and changes nothing else (10_state.md R37, R38, R39). -/
def Obligations.ConfigurationReadsBack : Prop :=
  ∀ (s : State) (v : Word), s.phase = .idle →
    s.memWrite 0x00000014 .word v = { s with block := BitVec.ofNat 8 v.toNat } ∧
    (s.memWrite 0x00000014 .word v).memRead 0x00000014 .word = .data (BitVec.ofNat 32 (v.toNat % 256)) ∧
    s.memWrite 0x00000018 .word v = { s with maxatt := v } ∧
    (s.memWrite 0x00000018 .word v).memRead 0x00000018 .word = .data v ∧
    s.memWrite 0x0000001C .word v = { s with tileReg := v } ∧
    (s.memWrite 0x0000001C .word v).memRead 0x0000001C .word = .data v

/-- STATUS: the word read has BUSY, DONE, ERRS, BUSYWR and ERR in their places and 0 elsewhere; a write clears
DONE, ERRS and BUSYWR where it has a 1, busy or not, and changes nothing else (10_state.md R36). -/
def Obligations.StatusReadAndAcknowledge : Prop :=
  ∀ (s : State) (v : Word),
    s.memRead 0x0000000C .word = .data (BitVec.ofNat 32
      (s.busy.toNat + 2 * s.done.toNat + 4 * s.errs.toNat + 8 * s.busywr.toNat + 256 * s.err.number.toNat)) ∧
    s.memWrite 0x0000000C .word v = { s with
      done := s.done && !v.getLsbD 1, errs := s.errs && !v.getLsbD 2, busywr := s.busywr && !v.getLsbD 3 }

/-- CTRL: IE and RNGZERO are set from bits 0 and 1 and read back, the rest reads 0; it acts while busy and leaves a
running command's latched copies alone (10_state.md R35). -/
def Obligations.CtrlWriteActs : Prop :=
  ∀ (s : State) (v : Word), v.getLsbD 2 = false →
    s.memWrite 0x00000008 .word v = { s with ie := v.getLsbD 0, rngzero := v.getLsbD 1 } ∧
    (s.memWrite 0x00000008 .word v).memRead 0x00000008 .word = .data (BitVec.ofNat 32 (v.toNat % 4))

/-- A write to CTRL with SRST = 1 resets as 70_reset_and_hazards.md R362 says, whatever the other bits: PHASE, CTRL,
STATUS, RESULT, ATTEMPTS and ERRINFO are cleared, what runs or is staged is dropped, and the buffers, descriptors,
VALID, BLOCK, MAXATT and TILE are kept. That the latched copies LCMD, LN, LMAXATT, LTILE and LZERO of the abandoned
command are kept too, where R362 says only that LCMD is abandoned, is the model's choice (log entry 8). -/
def Obligations.SoftResetKeepsBuffers : Prop :=
  ∀ (s : State) (v : Word), v.getLsbD 2 = true →
    s.memWrite 0x00000008 .word v = { s with
      phase := .idle, gen := none, staged := none, ie := false, rngzero := false, done := false, errs := false,
      busywr := false, err := .none, result := 0, attempts := 0, errinfo := 0 } ∧
    (s.memWrite 0x00000008 .word v).irq = false

/-- Driving the reset input asserted, and releasing it, give the power-on values of 10_state.md R55 in every state,
busy or not, with every buffer byte unwritten (R56, 70_reset_and_hazards.md R360); ID and PARAM hold their constants. The fields `rst`
and `inputs` are the model's own (log entries 9 and 12). -/
def Obligations.PowerOnResetValues : Prop :=
  ∀ (s t : State) (level : Bool) (rest : List HostOp), s.inputs = .rst level :: rest →
    (level = true ∨ s.rst = true) → hostStep s = .next t →
    t.cfg = s.cfg ∧ t.inputs = rest ∧ t.rst = level ∧ t.phase = .idle ∧ t.gen = none ∧ t.staged = none ∧
    t.ctrlWord = 0 ∧ t.statusWord = 0 ∧ t.blockWord = 1 ∧ t.maxatt = 0 ∧ t.tileReg = 0 ∧ t.result = 0 ∧
    t.attempts = 0 ∧ t.errinfo = 0 ∧ t.validWord = 0 ∧ (∀ b, t.dim b = 0) ∧ t.irq = false ∧
    (∀ x, t.mem.read x = none) ∧
    t.readReg .id = 0x48434331 ∧ t.readReg .param = s.readReg .param ∧ t.readReg .cmd = 0

/-- ID and PARAM read as the spec's constant and the configuration, CMD and every unlisted offset of the register
page read 0 (10_state.md R33, R34, R48, 20_memory.md R82); RESULT, ATTEMPTS, ERRINFO, VALID and DIM[b] read as the
machine's own registers, busy or not (R40 to R44, R49, 20_memory.md R83). -/
def Obligations.ConstantRegistersRead : Prop :=
  ∀ s : State, s.cfg.Legal →
    s.memRead 0x00000000 .word = .data 0x48434331 ∧
    s.memRead 0x00000004 .word
      = .data (BitVec.ofNat 32 (s.cfg.nmax + 256 * s.cfg.nbuf + 65536 * s.cfg.logbuf)) ∧
    s.memRead 0x00000010 .word = .data 0 ∧
    (∀ addr : Word, addr.toNat % 4 = 0 → addr.toNat < 0x1000 →
      ((0x30 ≤ addr.toNat ∧ addr.toNat < 0x40) ∨ 0x80 ≤ addr.toNat) → s.memRead addr .word = .data 0) ∧
    s.memRead 0x00000020 .word = .data s.result ∧
    s.memRead 0x00000024 .word = .data s.attempts ∧
    s.memRead 0x00000028 .word = .data s.errinfo ∧
    (∃ w : Word, s.memRead 0x0000002C .word = .data w ∧ ∀ b, w.getLsbD b = s.isValid b) ∧
    ∀ b, b < s.cfg.nbuf →
      s.memRead (BitVec.ofNat 32 (0x40 + 4 * b)) .word = .data s.dims[b]!

/-- The interrupt line follows DONE while IE = 1: low from accept, high after every completion, with or without
error, low again when the host clears DONE or IE (10_state.md R53, 60_exceptions.md R335). -/
def Obligations.InterruptFollowsDone : Prop :=
  (∀ s : State, s.irq = true ↔ s.ie = true ∧ s.done = true) ∧
  (∀ s v, (State.accept s v).irq = false) ∧
  (∀ (i : Instr) (s t : State), s.phase = .busy → exec i s = .next t → t.phase = .idle → t.irq = s.ie) ∧
  (∀ s v, v.getLsbD 1 = true → (State.acknowledge s v).irq = false) ∧
  (∀ (s : State) (v : Word), v.getLsbD 0 = false → v.getLsbD 2 = false → (s.writeCtrl v).irq = false)

/-! ### The invariant -/

/-- The invariant holds of the power-on state of every legal configuration, the reset state among them, whose
configuration is the model's choice (log entry 1). -/
def Obligations.PowerOnMeetsInvariant : Prop :=
  (∀ c : Config, c.Legal → (State.powerOn c).Inv) ∧ State.reset.Inv

/-- Every step keeps the invariant, from every state that has it, whatever the outside supplies: the memory is
canonical and lists existing bytes only, absent buffers read 0, RESULT.INV says whether RESULT.DET is odd, STATUS
and PHASE agree, ERRINFO is 0 unless an error named a tile, nothing is staged between steps, and a running
GENKEY holds only invertible sub-keys, below its ceiling. That nothing is staged between steps is the model's reading
(log entry 10). -/
def Obligations.StepsKeepInvariant : Prop :=
  ∀ s t : State, s.Inv → step s = .next t → t.Inv

/-- No agent is ever stuck except by the end of its own work (70_reset_and_hazards.md R371): from every state in
which the platform keeps to the spec the machine goes on. While PHASE = BUSY the Core takes its next step after finitely
many Host steps, unless one of them resets the machine; so every command but GENKEY comes to an end, whatever the Host
does (weak fairness, R370). That the machine idles at the end of a run is the model's choice (log entry 7), the bound on
the wait is a free value (log entry 3), and a transaction in reset is outside the spec (log entry 12). -/
def Obligations.MachineNeverStops : Prop :=
  (∀ s : State, s.WellDriven → s.GoesOn) ∧
  (∀ s : State, s.phase = .busy → s.rst = false →
    ∃ k t, k ≤ s.waitBound ∧ Host.Core.run core k s = .next t ∧
      (t.phase = .idle ∨ (t.mover = some .core ∧ t.lcmd = s.lcmd))) ∧
  (∀ s : State, s.phase = .busy → s.rst = false → (∀ d c, decode s.lcmd ≠ .ok (.genkey d c)) →
    ∃ k t, Host.Core.run core k s = .next t ∧ t.phase = .idle)
end

