-- ==== Sys2Proof/Laws/Arith.lean ====
section
/-! SUPPORT. The matrices of bytes as matrices over ℤ and over ℤ/256: determinant, product, adjugate, identity. -/

namespace Sys2Proof.Machine

/-! ### Over ℤ -/

/-- The leading n×n block of an integer matrix. -/
def leading (n : Nat) (m : Nat → Nat → Int) : Matrix (Fin n) (Fin n) Int := Matrix.of fun a c => m a c

/-- Row and column deletion, as Mathlib writes it. -/
theorem leading_minorZ (n : Nat) (m : Nat → Nat → Int) (r s : Fin (n + 1)) :
    leading n (minorZ m r s) = (leading (n + 1) m).submatrix r.succAbove s.succAbove := by
  ext a c
  have h : ∀ (k : Fin (n + 1)) (i : Fin n), ((k.succAbove i : Fin (n + 1)) : Nat) = if i.val < k.val then i.val else i.val + 1 := by
    intro k i
    by_cases hk : i.val < k.val
    · rw [if_pos hk, Fin.succAbove_of_castSucc_lt _ _ (by simpa [Fin.lt_def] using hk)]; rfl
    · rw [if_neg hk, Fin.succAbove_of_le_castSucc _ _ (by simp only [Fin.le_def, Fin.val_castSucc]; omega)]; rfl
  simp only [leading, minorZ, Matrix.of_apply, Matrix.submatrix_apply, h]

/-- The expansion along row 0 is the determinant (41_invertibility.md R190, R192). -/
theorem detZ_eq_det (n : Nat) (m : Nat → Nat → Int) : detZ n m = (leading n m).det := by
  induction n generalizing m with
  | zero => simp [detZ]
  | succ n ih =>
    rw [Matrix.det_succ_row_zero, Finset.sum_fin_eq_sum_range]
    simp only [detZ]
    rw [← List.sum_toFinset _ List.nodup_range, List.toFinset_range]
    refine Finset.sum_congr rfl fun j hj => ?_
    have hj : j < n + 1 := Finset.mem_range.1 hj
    have := leading_minorZ n m 0 ⟨j, hj⟩
    rw [dif_pos hj, ih, ← Fin.succAbove_zero, ← this]
    rfl

theorem toNat_byteOfInt (z : Int) : ((byteOfInt z).toNat : Int) = z % 256 := by
  unfold byteOfInt
  rw [BitVec.toNat_ofNat]
  omega

/-- One entry of a product (43_block_multiply.md R240). -/
theorem toNat_mulMod (n : Nat) (x y : Mat) (a c : Nat) :
    (mulMod n x y a c).toNat = (∑ j ∈ Finset.range n, (x a j).toNat * (y j c).toNat) % 256 := by
  unfold mulMod
  rw [BitVec.toNat_ofNat, ← List.sum_toFinset _ List.nodup_range, List.toFinset_range]
  omega

/-- The byte inverse inverts every odd byte (45_inverter.md R281). -/
theorem byteInverse_mul (d : Byte) : d.toNat % 2 = 1 → d.toNat * (byteInverse d).toNat % 256 = 1 := by
  revert d; decide

/-! ### Over ℤ/256 -/

/-- The leading n×n block of a matrix of bytes, over ℤ/256. -/
def residues (n : Nat) (m : Mat) : Matrix (Fin n) (Fin n) (ZMod 256) :=
  Matrix.of fun a c => ((m a c).toNat : ZMod 256)

/-- Equal residues are equal entries. -/
theorem residues_eq_iff (n : Nat) (x y : Mat) : residues n x = residues n y ↔ MatEq n x y := by
  constructor
  · intro h i j hi hj
    have := congrFun (congrFun h ⟨i, hi⟩) ⟨j, hj⟩
    simp only [residues, Matrix.of_apply, ZMod.natCast_eq_natCast_iff'] at this
    have h1 := (x i j).isLt
    have h2 := (y i j).isLt
    exact BitVec.eq_of_toNat_eq (by omega)
  · intro h; ext a c
    simp only [residues, Matrix.of_apply]
    rw [h a c a.2 c.2]

theorem residues_mulMod (n : Nat) (x y : Mat) : residues n (mulMod n x y) = residues n x * residues n y := by
  ext a c
  have h : ∀ k : Nat, ((k % 256 : Nat) : ZMod 256) = (k : ZMod 256) := fun k => by simp
  simp only [Matrix.mul_apply, residues, Matrix.of_apply, toNat_mulMod, h, Finset.sum_range]
  push_cast; rfl

theorem residues_identityMat (n : Nat) : residues n identityMat = 1 := by
  ext a c
  simp only [residues, Matrix.of_apply, identityMat, Matrix.one_apply, Fin.ext_iff]
  split <;> simp

theorem cast_byteOfInt (z : Int) : ((byteOfInt z).toNat : ZMod 256) = (z : ZMod 256) := by
  have h : (((byteOfInt z).toNat : Int) : ZMod 256) = ((z % 256 : Int) : ZMod 256) := by rw [toNat_byteOfInt z]
  rw [Int.cast_natCast] at h
  rw [h]; exact ZMod.intCast_mod z 256

/-- The integer determinant, reduced, is the determinant of the residues. -/
theorem cast_detZ (n : Nat) (m : Nat → Nat → Int) :
    ((detZ n m : Int) : ZMod 256) = (((leading n m).map (Int.castRingHom (ZMod 256)))).det := by
  rw [detZ_eq_det]; exact RingHom.map_det (Int.castRingHom (ZMod 256)) _

theorem cast_leading (n : Nat) (m : Mat) : (leading n m.toZ).map (Int.castRingHom (ZMod 256)) = residues n m := by
  ext a c; simp [leading, residues, Mat.toZ]

/-- DetMod is the determinant over ℤ/256. -/
theorem cast_detMod (n : Nat) (m : Mat) : ((detMod n m).toNat : ZMod 256) = (residues n m).det := by
  rw [detMod, cast_byteOfInt, cast_detZ, cast_leading]

/-- The adjugate of 45_inverter.md R281, reduced, is the adjugate of the residues. -/
theorem cast_adjugate (n : Nat) (m : Mat) (a c : Fin (n + 1)) :
    ((adjugate (n + 1) m.toZ a c : Int) : ZMod 256) = (residues (n + 1) m).adjugate a c := by
  rw [Matrix.adjugate_fin_succ_eq_det_submatrix]
  simp only [adjugate, Nat.add_sub_cancel]
  push_cast
  rw [cast_detZ, leading_minorZ, ← cast_leading, Nat.add_comm (a : Nat)]
  rfl

/-- DetMod depends on the leading entries only. -/
theorem detMod_congr {n : Nat} {x y : Mat} (h : MatEq n x y) : detMod n x = detMod n y := by
  apply BitVec.eq_of_toNat_eq
  have e := cast_detMod n x
  rw [(residues_eq_iff n x y).2 h, ← cast_detMod, ZMod.natCast_eq_natCast_iff'] at e
  have h1 := (detMod n x).isLt
  have h2 := (detMod n y).isLt
  omega

end Sys2Proof.Machine
end

