-- ==== Sys2Proof/Laws/Memory.lean ====
section
/-! SUPPORT. What the memory operations do: read after write, canonical form, and which addresses become listed. -/

namespace Sys2Proof.Machine

@[simp] theorem Memory.read_nil (a : Nat) : Memory.read [] a = none := rfl

theorem Memory.read_write_same (m : Memory) (a : Nat) (v : Byte) : (m.write a v).read a = some v := by
  induction m with
  | nil => simp [Memory.write, Memory.read]
  | cons x rest ih =>
    obtain ⟨k, w⟩ := x
    simp only [Memory.write]
    split
    · simp [Memory.read]
    · split
      · simp [Memory.read]
      · rename_i h; simp [Memory.read, h, ih]

theorem Memory.read_write_other (m : Memory) {a b : Nat} (v : Byte) (h : b ≠ a) :
    (m.write a v).read b = m.read b := by
  induction m with
  | nil => simp [Memory.write, Memory.read, h]
  | cons x rest ih =>
    obtain ⟨k, w⟩ := x
    simp only [Memory.write]
    split
    · simp [Memory.read, h]
    · split
      · rename_i e; subst e; simp [Memory.read, h]
      · simp [Memory.read, ih]

theorem Memory.read_write (m : Memory) (a b : Nat) (v : Byte) :
    (m.write a v).read b = if b = a then some v else m.read b := by
  split
  · rename_i h; subst h; exact m.read_write_same b v
  · rename_i h; exact m.read_write_other v h

/-- Every listed address after a write was listed before, or is the one written. -/
theorem Memory.mem_write {m : Memory} {a : Nat} {v : Byte} {x : Host.Cell} (h : x ∈ m.write a v) :
    x = (a, v) ∨ x ∈ m := by
  induction m with
  | nil => simpa [Memory.write] using h
  | cons y rest ih =>
    obtain ⟨k, w⟩ := y
    simp only [Memory.write] at h
    split at h
    · simpa using h
    · split at h
      · simp only [List.mem_cons] at h ⊢; tauto
      · simp only [List.mem_cons] at h ⊢
        rcases h with h | h
        · exact .inr (.inl h)
        · rcases ih h with h | h
          · exact .inl h
          · exact .inr (.inr h)

theorem Memory.wf_write {m : Memory} (a : Nat) (v : Byte) (h : m.wf) : (m.write a v).wf := by
  induction m with
  | nil => simp [Memory.write]
  | cons y rest ih =>
    obtain ⟨k, w⟩ := y
    have hk := (List.pairwise_cons.1 h).1
    have hr := (List.pairwise_cons.1 h).2
    simp only [Memory.write]
    split
    · rename_i lt
      refine List.pairwise_cons.2 ⟨?_, h⟩
      intro x hx
      rcases List.mem_cons.1 hx with rfl | hx
      · exact lt
      · exact lt_trans lt (hk x hx)
    · split
      · rename_i e; subst e
        exact List.pairwise_cons.2 ⟨hk, hr⟩
      · rename_i h1 h2
        refine List.pairwise_cons.2 ⟨?_, ih hr⟩
        intro x hx
        rcases Memory.mem_write hx with rfl | hx
        · show k < a; omega
        · exact hk x hx

theorem Memory.read_writeBytes (m : Memory) (a : Nat) (bytes : List Byte) (x : Nat) :
    (m.writeBytes a bytes).read x
      = if a ≤ x ∧ x < a + bytes.length then bytes[x - a]? else m.read x := by
  induction bytes generalizing m a with
  | nil =>
    have : ¬ (a ≤ x ∧ x < a + ([] : List Byte).length) := by simp
    rw [if_neg this]; rfl
  | cons v vs ih =>
    simp only [Memory.writeBytes, ih, Memory.read_write, List.length_cons]
    by_cases e : x = a
    · subst e; simp
    · by_cases h : a + 1 ≤ x ∧ x < a + 1 + vs.length
      · have h' : a ≤ x ∧ x < a + (vs.length + 1) := by omega
        rw [if_pos h, if_pos h', show x - a = (x - (a + 1)) + 1 by omega, List.getElem?_cons_succ]
      · have h' : ¬ (a ≤ x ∧ x < a + (vs.length + 1)) := by omega
        rw [if_neg h, if_neg h', if_neg e]

theorem Memory.mem_writeBytes {m : Memory} {a : Nat} {bytes : List Byte} {x : Host.Cell}
    (h : x ∈ m.writeBytes a bytes) : (a ≤ x.1 ∧ x.1 < a + bytes.length) ∨ x ∈ m := by
  induction bytes generalizing m a with
  | nil => exact .inr h
  | cons v vs ih =>
    rcases ih h with h | h
    · left; simp only [List.length_cons]; omega
    · rcases Memory.mem_write h with rfl | h
      · left; simp
      · exact .inr h

theorem Memory.wf_writeBytes {m : Memory} (a : Nat) (bytes : List Byte) (h : m.wf) :
    (m.writeBytes a bytes).wf := by
  induction bytes generalizing m a with
  | nil => exact h
  | cons v vs ih => exact ih (a + 1) (Memory.wf_write a v h)

/-- Equal reads are equal memories, in the canonical form. -/
theorem Memory.ext_of_read {m k : Memory} (hm : m.wf) (hk : k.wf) (h : ∀ a, m.read a = k.read a) : m = k := by
  have none_of_lt : ∀ (l : Memory) (b : Nat), (∀ x ∈ l, b < x.1) → l.read b = none := by
    intro l b hl
    induction l with
    | nil => rfl
    | cons y r ih =>
      obtain ⟨i, w⟩ := y
      have hi : b < i := hl (i, w) (by simp)
      simp only [Memory.read]
      rw [if_neg (by omega)]
      exact ih fun x hx => hl x (by simp [hx])
  induction m generalizing k with
  | nil =>
    cases k with
    | nil => rfl
    | cons y r => have := h y.1; simp [Memory.read] at this
  | cons x rest ih =>
    obtain ⟨i, w⟩ := x
    cases k with
    | nil => have := h i; simp [Memory.read] at this
    | cons y r =>
      obtain ⟨j, z⟩ := y
      have hi := (List.pairwise_cons.1 hm).1
      have hj := (List.pairwise_cons.1 hk).1
      have hij : i = j := by
        rcases Nat.lt_trichotomy i j with lt | e | lt
        · have := h i
          simp only [Memory.read, if_true] at this
          rw [if_neg (by omega), none_of_lt r i fun x hx => lt.trans (hj x hx)] at this
          simp at this
        · exact e
        · have := h j
          simp only [Memory.read, if_true] at this
          rw [if_neg (by omega), none_of_lt rest j fun x hx => lt.trans (hi x hx)] at this
          simp at this
      subst hij
      have hw : w = z := by have := h i; simpa [Memory.read] using this
      subst hw
      congr 1
      refine ih (List.pairwise_cons.1 hm).2 (List.pairwise_cons.1 hk).2 fun a => ?_
      by_cases e : a = i
      · subst e
        rw [none_of_lt rest a hi, none_of_lt r a hj]
      · have := h a
        simpa [Memory.read, e] using this

end Sys2Proof.Machine
end

