-- ==== Sys2Proof/Laws/State.lean ====
section
/-! SUPPORT. What each update leaves in each field of State, so that no proof unfolds a record update. -/

namespace Sys2Proof.Machine

variable (s : State)

/-! ### writeDim -/

@[simp] theorem State.writeDim_cfg (b : Nat) (w : Word) : (s.writeDim b w).cfg = s.cfg := rfl
@[simp] theorem State.writeDim_mem (b : Nat) (w : Word) : (s.writeDim b w).mem = s.mem := rfl
@[simp] theorem State.writeDim_dims (b : Nat) (w : Word) : (s.writeDim b w).dims = s.dimsWith b w := rfl
@[simp] theorem State.writeDim_valid (b : Nat) (w : Word) :
    (s.writeDim b w).valid = if b < s.cfg.nbuf then s.valid &&& ~~~validBit b else s.valid := rfl
@[simp] theorem State.writeDim_ie (b : Nat) (w : Word) : (s.writeDim b w).ie = s.ie := rfl
@[simp] theorem State.writeDim_rngzero (b : Nat) (w : Word) : (s.writeDim b w).rngzero = s.rngzero := rfl
@[simp] theorem State.writeDim_done (b : Nat) (w : Word) : (s.writeDim b w).done = s.done := rfl
@[simp] theorem State.writeDim_errs (b : Nat) (w : Word) : (s.writeDim b w).errs = s.errs := rfl
@[simp] theorem State.writeDim_busywr (b : Nat) (w : Word) : (s.writeDim b w).busywr = s.busywr := rfl
@[simp] theorem State.writeDim_err (b : Nat) (w : Word) : (s.writeDim b w).err = s.err := rfl
@[simp] theorem State.writeDim_block (b : Nat) (w : Word) : (s.writeDim b w).block = s.block := rfl
@[simp] theorem State.writeDim_maxatt (b : Nat) (w : Word) : (s.writeDim b w).maxatt = s.maxatt := rfl
@[simp] theorem State.writeDim_tileReg (b : Nat) (w : Word) : (s.writeDim b w).tileReg = s.tileReg := rfl
@[simp] theorem State.writeDim_result (b : Nat) (w : Word) : (s.writeDim b w).result = s.result := rfl
@[simp] theorem State.writeDim_attempts (b : Nat) (w : Word) : (s.writeDim b w).attempts = s.attempts := rfl
@[simp] theorem State.writeDim_errinfo (b : Nat) (w : Word) : (s.writeDim b w).errinfo = s.errinfo := rfl
@[simp] theorem State.writeDim_phase (b : Nat) (w : Word) : (s.writeDim b w).phase = s.phase := rfl
@[simp] theorem State.writeDim_lcmd (b : Nat) (w : Word) : (s.writeDim b w).lcmd = s.lcmd := rfl
@[simp] theorem State.writeDim_ln (b : Nat) (w : Word) : (s.writeDim b w).ln = s.ln := rfl
@[simp] theorem State.writeDim_lmaxatt (b : Nat) (w : Word) : (s.writeDim b w).lmaxatt = s.lmaxatt := rfl
@[simp] theorem State.writeDim_ltile (b : Nat) (w : Word) : (s.writeDim b w).ltile = s.ltile := rfl
@[simp] theorem State.writeDim_lzero (b : Nat) (w : Word) : (s.writeDim b w).lzero = s.lzero := rfl
@[simp] theorem State.writeDim_gen (b : Nat) (w : Word) : (s.writeDim b w).gen = s.gen := rfl
@[simp] theorem State.writeDim_staged (b : Nat) (w : Word) : (s.writeDim b w).staged = s.staged := rfl
@[simp] theorem State.writeDim_rst (b : Nat) (w : Word) : (s.writeDim b w).rst = s.rst := rfl
@[simp] theorem State.writeDim_inputs (b : Nat) (w : Word) : (s.writeDim b w).inputs = s.inputs := rfl
@[simp] theorem State.writeDim_responses (b : Nat) (w : Word) : (s.writeDim b w).responses = s.responses := rfl
@[simp] theorem State.writeDim_turns (b : Nat) (w : Word) : (s.writeDim b w).turns = s.turns := rfl
@[simp] theorem State.writeDim_patience (b : Nat) (w : Word) : (s.writeDim b w).patience = s.patience := rfl
@[simp] theorem State.writeDim_entropy (b : Nat) (w : Word) : (s.writeDim b w).entropy = s.entropy := rfl
@[simp] theorem State.writeDim_tick (b : Nat) (w : Word) : (s.writeDim b w).tick = s.tick := rfl
@[simp] theorem State.writeDim_draws (b : Nat) (w : Word) : (s.writeDim b w).draws = s.draws := rfl

/-! ### discard -/

@[simp] theorem State.discard_cfg (v : Word) : (s.discard v).cfg = s.cfg := rfl
@[simp] theorem State.discard_mem (v : Word) : (s.discard v).mem = s.mem := rfl
@[simp] theorem State.discard_dims (v : Word) : (s.discard v).dims = s.dims := rfl
@[simp] theorem State.discard_valid (v : Word) : (s.discard v).valid = s.valid &&& ~~~(v.setWidth 16) := rfl
@[simp] theorem State.discard_ie (v : Word) : (s.discard v).ie = s.ie := rfl
@[simp] theorem State.discard_rngzero (v : Word) : (s.discard v).rngzero = s.rngzero := rfl
@[simp] theorem State.discard_done (v : Word) : (s.discard v).done = s.done := rfl
@[simp] theorem State.discard_errs (v : Word) : (s.discard v).errs = s.errs := rfl
@[simp] theorem State.discard_busywr (v : Word) : (s.discard v).busywr = s.busywr := rfl
@[simp] theorem State.discard_err (v : Word) : (s.discard v).err = s.err := rfl
@[simp] theorem State.discard_block (v : Word) : (s.discard v).block = s.block := rfl
@[simp] theorem State.discard_maxatt (v : Word) : (s.discard v).maxatt = s.maxatt := rfl
@[simp] theorem State.discard_tileReg (v : Word) : (s.discard v).tileReg = s.tileReg := rfl
@[simp] theorem State.discard_result (v : Word) : (s.discard v).result = s.result := rfl
@[simp] theorem State.discard_attempts (v : Word) : (s.discard v).attempts = s.attempts := rfl
@[simp] theorem State.discard_errinfo (v : Word) : (s.discard v).errinfo = s.errinfo := rfl
@[simp] theorem State.discard_phase (v : Word) : (s.discard v).phase = s.phase := rfl
@[simp] theorem State.discard_lcmd (v : Word) : (s.discard v).lcmd = s.lcmd := rfl
@[simp] theorem State.discard_ln (v : Word) : (s.discard v).ln = s.ln := rfl
@[simp] theorem State.discard_lmaxatt (v : Word) : (s.discard v).lmaxatt = s.lmaxatt := rfl
@[simp] theorem State.discard_ltile (v : Word) : (s.discard v).ltile = s.ltile := rfl
@[simp] theorem State.discard_lzero (v : Word) : (s.discard v).lzero = s.lzero := rfl
@[simp] theorem State.discard_gen (v : Word) : (s.discard v).gen = s.gen := rfl
@[simp] theorem State.discard_staged (v : Word) : (s.discard v).staged = s.staged := rfl
@[simp] theorem State.discard_rst (v : Word) : (s.discard v).rst = s.rst := rfl
@[simp] theorem State.discard_inputs (v : Word) : (s.discard v).inputs = s.inputs := rfl
@[simp] theorem State.discard_responses (v : Word) : (s.discard v).responses = s.responses := rfl
@[simp] theorem State.discard_turns (v : Word) : (s.discard v).turns = s.turns := rfl
@[simp] theorem State.discard_patience (v : Word) : (s.discard v).patience = s.patience := rfl
@[simp] theorem State.discard_entropy (v : Word) : (s.discard v).entropy = s.entropy := rfl
@[simp] theorem State.discard_tick (v : Word) : (s.discard v).tick = s.tick := rfl
@[simp] theorem State.discard_draws (v : Word) : (s.discard v).draws = s.draws := rfl

/-! ### loadBytes -/

@[simp] theorem State.loadBytes_cfg (b o : Nat) (bytes : List Byte) : (s.loadBytes b o bytes).cfg = s.cfg := rfl
@[simp] theorem State.loadBytes_mem (b o : Nat) (bytes : List Byte) :
    (s.loadBytes b o bytes).mem = s.mem.writeBytes (bufAddr b o) bytes := rfl
@[simp] theorem State.loadBytes_dims (b o : Nat) (bytes : List Byte) : (s.loadBytes b o bytes).dims = s.dims := rfl
@[simp] theorem State.loadBytes_valid (b o : Nat) (bytes : List Byte) :
    (s.loadBytes b o bytes).valid = s.validWith b := rfl
@[simp] theorem State.loadBytes_ie (b o : Nat) (bytes : List Byte) : (s.loadBytes b o bytes).ie = s.ie := rfl
@[simp] theorem State.loadBytes_rngzero (b o : Nat) (bytes : List Byte) : (s.loadBytes b o bytes).rngzero = s.rngzero := rfl
@[simp] theorem State.loadBytes_done (b o : Nat) (bytes : List Byte) : (s.loadBytes b o bytes).done = s.done := rfl
@[simp] theorem State.loadBytes_errs (b o : Nat) (bytes : List Byte) : (s.loadBytes b o bytes).errs = s.errs := rfl
@[simp] theorem State.loadBytes_busywr (b o : Nat) (bytes : List Byte) : (s.loadBytes b o bytes).busywr = s.busywr := rfl
@[simp] theorem State.loadBytes_err (b o : Nat) (bytes : List Byte) : (s.loadBytes b o bytes).err = s.err := rfl
@[simp] theorem State.loadBytes_block (b o : Nat) (bytes : List Byte) : (s.loadBytes b o bytes).block = s.block := rfl
@[simp] theorem State.loadBytes_maxatt (b o : Nat) (bytes : List Byte) : (s.loadBytes b o bytes).maxatt = s.maxatt := rfl
@[simp] theorem State.loadBytes_tileReg (b o : Nat) (bytes : List Byte) : (s.loadBytes b o bytes).tileReg = s.tileReg := rfl
@[simp] theorem State.loadBytes_result (b o : Nat) (bytes : List Byte) : (s.loadBytes b o bytes).result = s.result := rfl
@[simp] theorem State.loadBytes_attempts (b o : Nat) (bytes : List Byte) :
    (s.loadBytes b o bytes).attempts = s.attempts := rfl
@[simp] theorem State.loadBytes_errinfo (b o : Nat) (bytes : List Byte) : (s.loadBytes b o bytes).errinfo = s.errinfo := rfl
@[simp] theorem State.loadBytes_phase (b o : Nat) (bytes : List Byte) : (s.loadBytes b o bytes).phase = s.phase := rfl
@[simp] theorem State.loadBytes_lcmd (b o : Nat) (bytes : List Byte) : (s.loadBytes b o bytes).lcmd = s.lcmd := rfl
@[simp] theorem State.loadBytes_ln (b o : Nat) (bytes : List Byte) : (s.loadBytes b o bytes).ln = s.ln := rfl
@[simp] theorem State.loadBytes_lmaxatt (b o : Nat) (bytes : List Byte) : (s.loadBytes b o bytes).lmaxatt = s.lmaxatt := rfl
@[simp] theorem State.loadBytes_ltile (b o : Nat) (bytes : List Byte) : (s.loadBytes b o bytes).ltile = s.ltile := rfl
@[simp] theorem State.loadBytes_lzero (b o : Nat) (bytes : List Byte) : (s.loadBytes b o bytes).lzero = s.lzero := rfl
@[simp] theorem State.loadBytes_gen (b o : Nat) (bytes : List Byte) : (s.loadBytes b o bytes).gen = s.gen := rfl
@[simp] theorem State.loadBytes_staged (b o : Nat) (bytes : List Byte) : (s.loadBytes b o bytes).staged = s.staged := rfl
@[simp] theorem State.loadBytes_rst (b o : Nat) (bytes : List Byte) : (s.loadBytes b o bytes).rst = s.rst := rfl
@[simp] theorem State.loadBytes_inputs (b o : Nat) (bytes : List Byte) : (s.loadBytes b o bytes).inputs = s.inputs := rfl
@[simp] theorem State.loadBytes_responses (b o : Nat) (bytes : List Byte) :
    (s.loadBytes b o bytes).responses = s.responses := rfl
@[simp] theorem State.loadBytes_turns (b o : Nat) (bytes : List Byte) : (s.loadBytes b o bytes).turns = s.turns := rfl
@[simp] theorem State.loadBytes_patience (b o : Nat) (bytes : List Byte) :
    (s.loadBytes b o bytes).patience = s.patience := rfl
@[simp] theorem State.loadBytes_entropy (b o : Nat) (bytes : List Byte) : (s.loadBytes b o bytes).entropy = s.entropy := rfl
@[simp] theorem State.loadBytes_tick (b o : Nat) (bytes : List Byte) : (s.loadBytes b o bytes).tick = s.tick := rfl
@[simp] theorem State.loadBytes_draws (b o : Nat) (bytes : List Byte) : (s.loadBytes b o bytes).draws = s.draws := rfl

/-! ### accept -/

@[simp] theorem State.accept_cfg (v : Word) : (s.accept v).cfg = s.cfg := rfl
@[simp] theorem State.accept_mem (v : Word) : (s.accept v).mem = s.mem := rfl
@[simp] theorem State.accept_dims (v : Word) : (s.accept v).dims = s.dims := rfl
@[simp] theorem State.accept_valid (v : Word) : (s.accept v).valid = s.valid := rfl
@[simp] theorem State.accept_ie (v : Word) : (s.accept v).ie = s.ie := rfl
@[simp] theorem State.accept_rngzero (v : Word) : (s.accept v).rngzero = s.rngzero := rfl
@[simp] theorem State.accept_done (v : Word) : (s.accept v).done = false := rfl
@[simp] theorem State.accept_errs (v : Word) : (s.accept v).errs = s.errs := rfl
@[simp] theorem State.accept_busywr (v : Word) : (s.accept v).busywr = s.busywr := rfl
@[simp] theorem State.accept_err (v : Word) : (s.accept v).err = .none := rfl
@[simp] theorem State.accept_block (v : Word) : (s.accept v).block = s.block := rfl
@[simp] theorem State.accept_maxatt (v : Word) : (s.accept v).maxatt = s.maxatt := rfl
@[simp] theorem State.accept_tileReg (v : Word) : (s.accept v).tileReg = s.tileReg := rfl
@[simp] theorem State.accept_result (v : Word) : (s.accept v).result = s.result := rfl
@[simp] theorem State.accept_attempts (v : Word) : (s.accept v).attempts = s.attempts := rfl
@[simp] theorem State.accept_errinfo (v : Word) : (s.accept v).errinfo = s.errinfo := rfl
@[simp] theorem State.accept_phase (v : Word) : (s.accept v).phase = .busy := rfl
@[simp] theorem State.accept_lcmd (v : Word) : (s.accept v).lcmd = v := rfl
@[simp] theorem State.accept_ln (v : Word) : (s.accept v).ln = s.block := rfl
@[simp] theorem State.accept_lmaxatt (v : Word) : (s.accept v).lmaxatt = s.maxatt := rfl
@[simp] theorem State.accept_ltile (v : Word) : (s.accept v).ltile = s.tileReg := rfl
@[simp] theorem State.accept_lzero (v : Word) : (s.accept v).lzero = s.rngzero := rfl
@[simp] theorem State.accept_gen (v : Word) : (s.accept v).gen = s.gen := rfl
@[simp] theorem State.accept_staged (v : Word) : (s.accept v).staged = s.staged := rfl
@[simp] theorem State.accept_rst (v : Word) : (s.accept v).rst = s.rst := rfl
@[simp] theorem State.accept_inputs (v : Word) : (s.accept v).inputs = s.inputs := rfl
@[simp] theorem State.accept_responses (v : Word) : (s.accept v).responses = s.responses := rfl
@[simp] theorem State.accept_turns (v : Word) : (s.accept v).turns = s.turns := rfl
@[simp] theorem State.accept_patience (v : Word) : (s.accept v).patience = s.patience := rfl
@[simp] theorem State.accept_entropy (v : Word) : (s.accept v).entropy = s.entropy := rfl
@[simp] theorem State.accept_tick (v : Word) : (s.accept v).tick = s.tick := rfl
@[simp] theorem State.accept_draws (v : Word) : (s.accept v).draws = s.draws := rfl

/-! ### stage -/

@[simp] theorem State.stage_cfg (d : Nat) (dim : Word) (bytes : List Byte) :
    (s.stage d dim bytes).cfg = s.cfg := rfl
@[simp] theorem State.stage_mem (d : Nat) (dim : Word) (bytes : List Byte) :
    (s.stage d dim bytes).mem = s.mem := rfl
@[simp] theorem State.stage_dims (d : Nat) (dim : Word) (bytes : List Byte) :
    (s.stage d dim bytes).dims = s.dims := rfl
@[simp] theorem State.stage_valid (d : Nat) (dim : Word) (bytes : List Byte) :
    (s.stage d dim bytes).valid = s.valid := rfl
@[simp] theorem State.stage_ie (d : Nat) (dim : Word) (bytes : List Byte) :
    (s.stage d dim bytes).ie = s.ie := rfl
@[simp] theorem State.stage_rngzero (d : Nat) (dim : Word) (bytes : List Byte) :
    (s.stage d dim bytes).rngzero = s.rngzero := rfl
@[simp] theorem State.stage_done (d : Nat) (dim : Word) (bytes : List Byte) :
    (s.stage d dim bytes).done = s.done := rfl
@[simp] theorem State.stage_errs (d : Nat) (dim : Word) (bytes : List Byte) :
    (s.stage d dim bytes).errs = s.errs := rfl
@[simp] theorem State.stage_busywr (d : Nat) (dim : Word) (bytes : List Byte) :
    (s.stage d dim bytes).busywr = s.busywr := rfl
@[simp] theorem State.stage_err (d : Nat) (dim : Word) (bytes : List Byte) :
    (s.stage d dim bytes).err = s.err := rfl
@[simp] theorem State.stage_block (d : Nat) (dim : Word) (bytes : List Byte) :
    (s.stage d dim bytes).block = s.block := rfl
@[simp] theorem State.stage_maxatt (d : Nat) (dim : Word) (bytes : List Byte) :
    (s.stage d dim bytes).maxatt = s.maxatt := rfl
@[simp] theorem State.stage_tileReg (d : Nat) (dim : Word) (bytes : List Byte) :
    (s.stage d dim bytes).tileReg = s.tileReg := rfl
@[simp] theorem State.stage_result (d : Nat) (dim : Word) (bytes : List Byte) :
    (s.stage d dim bytes).result = s.result := rfl
@[simp] theorem State.stage_attempts (d : Nat) (dim : Word) (bytes : List Byte) :
    (s.stage d dim bytes).attempts = s.attempts := rfl
@[simp] theorem State.stage_errinfo (d : Nat) (dim : Word) (bytes : List Byte) :
    (s.stage d dim bytes).errinfo = s.errinfo := rfl
@[simp] theorem State.stage_phase (d : Nat) (dim : Word) (bytes : List Byte) :
    (s.stage d dim bytes).phase = s.phase := rfl
@[simp] theorem State.stage_lcmd (d : Nat) (dim : Word) (bytes : List Byte) :
    (s.stage d dim bytes).lcmd = s.lcmd := rfl
@[simp] theorem State.stage_ln (d : Nat) (dim : Word) (bytes : List Byte) :
    (s.stage d dim bytes).ln = s.ln := rfl
@[simp] theorem State.stage_lmaxatt (d : Nat) (dim : Word) (bytes : List Byte) :
    (s.stage d dim bytes).lmaxatt = s.lmaxatt := rfl
@[simp] theorem State.stage_ltile (d : Nat) (dim : Word) (bytes : List Byte) :
    (s.stage d dim bytes).ltile = s.ltile := rfl
@[simp] theorem State.stage_lzero (d : Nat) (dim : Word) (bytes : List Byte) :
    (s.stage d dim bytes).lzero = s.lzero := rfl
@[simp] theorem State.stage_gen (d : Nat) (dim : Word) (bytes : List Byte) :
    (s.stage d dim bytes).gen = s.gen := rfl
@[simp] theorem State.stage_staged (d : Nat) (dim : Word) (bytes : List Byte) :
    (s.stage d dim bytes).staged = some ⟨d, dim, bytes⟩ := rfl
@[simp] theorem State.stage_rst (d : Nat) (dim : Word) (bytes : List Byte) :
    (s.stage d dim bytes).rst = s.rst := rfl
@[simp] theorem State.stage_inputs (d : Nat) (dim : Word) (bytes : List Byte) :
    (s.stage d dim bytes).inputs = s.inputs := rfl
@[simp] theorem State.stage_responses (d : Nat) (dim : Word) (bytes : List Byte) :
    (s.stage d dim bytes).responses = s.responses := rfl
@[simp] theorem State.stage_turns (d : Nat) (dim : Word) (bytes : List Byte) :
    (s.stage d dim bytes).turns = s.turns := rfl
@[simp] theorem State.stage_patience (d : Nat) (dim : Word) (bytes : List Byte) :
    (s.stage d dim bytes).patience = s.patience := rfl
@[simp] theorem State.stage_entropy (d : Nat) (dim : Word) (bytes : List Byte) :
    (s.stage d dim bytes).entropy = s.entropy := rfl
@[simp] theorem State.stage_tick (d : Nat) (dim : Word) (bytes : List Byte) :
    (s.stage d dim bytes).tick = s.tick := rfl
@[simp] theorem State.stage_draws (d : Nat) (dim : Word) (bytes : List Byte) :
    (s.stage d dim bytes).draws = s.draws := rfl

/-! ### complete -/

@[simp] theorem State.complete_cfg (e : ErrCode) (info : Word) : (s.complete e info).cfg = s.cfg := rfl
@[simp] theorem State.complete_mem (e : ErrCode) (info : Word) :
    (s.complete e info).mem = if e = .none then s.committedMem else s.mem := rfl
@[simp] theorem State.complete_dims (e : ErrCode) (info : Word) :
    (s.complete e info).dims = if e = .none then s.committedDims else s.dims := rfl
@[simp] theorem State.complete_valid (e : ErrCode) (info : Word) :
    (s.complete e info).valid = if e = .none then s.committedValid else s.valid := rfl
@[simp] theorem State.complete_ie (e : ErrCode) (info : Word) : (s.complete e info).ie = s.ie := rfl
@[simp] theorem State.complete_rngzero (e : ErrCode) (info : Word) : (s.complete e info).rngzero = s.rngzero := rfl
@[simp] theorem State.complete_done (e : ErrCode) (info : Word) : (s.complete e info).done = true := rfl
@[simp] theorem State.complete_errs (e : ErrCode) (info : Word) :
    (s.complete e info).errs = (s.errs || decide (e ≠ .none)) := rfl
@[simp] theorem State.complete_busywr (e : ErrCode) (info : Word) : (s.complete e info).busywr = s.busywr := rfl
@[simp] theorem State.complete_err (e : ErrCode) (info : Word) : (s.complete e info).err = e := rfl
@[simp] theorem State.complete_block (e : ErrCode) (info : Word) : (s.complete e info).block = s.block := rfl
@[simp] theorem State.complete_maxatt (e : ErrCode) (info : Word) : (s.complete e info).maxatt = s.maxatt := rfl
@[simp] theorem State.complete_tileReg (e : ErrCode) (info : Word) : (s.complete e info).tileReg = s.tileReg := rfl
@[simp] theorem State.complete_result (e : ErrCode) (info : Word) : (s.complete e info).result = s.result := rfl
@[simp] theorem State.complete_attempts (e : ErrCode) (info : Word) : (s.complete e info).attempts = s.attempts := rfl
@[simp] theorem State.complete_errinfo (e : ErrCode) (info : Word) :
    (s.complete e info).errinfo = if e.namesTile then info else 0 := rfl
@[simp] theorem State.complete_phase (e : ErrCode) (info : Word) : (s.complete e info).phase = .idle := rfl
@[simp] theorem State.complete_lcmd (e : ErrCode) (info : Word) : (s.complete e info).lcmd = s.lcmd := rfl
@[simp] theorem State.complete_ln (e : ErrCode) (info : Word) : (s.complete e info).ln = s.ln := rfl
@[simp] theorem State.complete_lmaxatt (e : ErrCode) (info : Word) : (s.complete e info).lmaxatt = s.lmaxatt := rfl
@[simp] theorem State.complete_ltile (e : ErrCode) (info : Word) : (s.complete e info).ltile = s.ltile := rfl
@[simp] theorem State.complete_lzero (e : ErrCode) (info : Word) : (s.complete e info).lzero = s.lzero := rfl
@[simp] theorem State.complete_gen (e : ErrCode) (info : Word) : (s.complete e info).gen = none := rfl
@[simp] theorem State.complete_staged (e : ErrCode) (info : Word) : (s.complete e info).staged = none := rfl
@[simp] theorem State.complete_rst (e : ErrCode) (info : Word) : (s.complete e info).rst = s.rst := rfl
@[simp] theorem State.complete_inputs (e : ErrCode) (info : Word) : (s.complete e info).inputs = s.inputs := rfl
@[simp] theorem State.complete_responses (e : ErrCode) (info : Word) : (s.complete e info).responses = s.responses := rfl
@[simp] theorem State.complete_turns (e : ErrCode) (info : Word) : (s.complete e info).turns = s.turns := rfl
@[simp] theorem State.complete_patience (e : ErrCode) (info : Word) : (s.complete e info).patience = s.patience := rfl
@[simp] theorem State.complete_entropy (e : ErrCode) (info : Word) : (s.complete e info).entropy = s.entropy := rfl
@[simp] theorem State.complete_tick (e : ErrCode) (info : Word) : (s.complete e info).tick = s.tick := rfl
@[simp] theorem State.complete_draws (e : ErrCode) (info : Word) : (s.complete e info).draws = s.draws := rfl

/-! ### writeResult -/

@[simp] theorem State.writeResult_cfg (w : Word) : (s.writeResult w).cfg = s.cfg := rfl
@[simp] theorem State.writeResult_mem (w : Word) : (s.writeResult w).mem = s.mem := rfl
@[simp] theorem State.writeResult_dims (w : Word) : (s.writeResult w).dims = s.dims := rfl
@[simp] theorem State.writeResult_valid (w : Word) : (s.writeResult w).valid = s.valid := rfl
@[simp] theorem State.writeResult_ie (w : Word) : (s.writeResult w).ie = s.ie := rfl
@[simp] theorem State.writeResult_rngzero (w : Word) : (s.writeResult w).rngzero = s.rngzero := rfl
@[simp] theorem State.writeResult_done (w : Word) : (s.writeResult w).done = s.done := rfl
@[simp] theorem State.writeResult_errs (w : Word) : (s.writeResult w).errs = s.errs := rfl
@[simp] theorem State.writeResult_busywr (w : Word) : (s.writeResult w).busywr = s.busywr := rfl
@[simp] theorem State.writeResult_err (w : Word) : (s.writeResult w).err = s.err := rfl
@[simp] theorem State.writeResult_block (w : Word) : (s.writeResult w).block = s.block := rfl
@[simp] theorem State.writeResult_maxatt (w : Word) : (s.writeResult w).maxatt = s.maxatt := rfl
@[simp] theorem State.writeResult_tileReg (w : Word) : (s.writeResult w).tileReg = s.tileReg := rfl
@[simp] theorem State.writeResult_result (w : Word) : (s.writeResult w).result = w := rfl
@[simp] theorem State.writeResult_attempts (w : Word) : (s.writeResult w).attempts = s.attempts := rfl
@[simp] theorem State.writeResult_errinfo (w : Word) : (s.writeResult w).errinfo = s.errinfo := rfl
@[simp] theorem State.writeResult_phase (w : Word) : (s.writeResult w).phase = s.phase := rfl
@[simp] theorem State.writeResult_lcmd (w : Word) : (s.writeResult w).lcmd = s.lcmd := rfl
@[simp] theorem State.writeResult_ln (w : Word) : (s.writeResult w).ln = s.ln := rfl
@[simp] theorem State.writeResult_lmaxatt (w : Word) : (s.writeResult w).lmaxatt = s.lmaxatt := rfl
@[simp] theorem State.writeResult_ltile (w : Word) : (s.writeResult w).ltile = s.ltile := rfl
@[simp] theorem State.writeResult_lzero (w : Word) : (s.writeResult w).lzero = s.lzero := rfl
@[simp] theorem State.writeResult_gen (w : Word) : (s.writeResult w).gen = s.gen := rfl
@[simp] theorem State.writeResult_staged (w : Word) : (s.writeResult w).staged = s.staged := rfl
@[simp] theorem State.writeResult_rst (w : Word) : (s.writeResult w).rst = s.rst := rfl
@[simp] theorem State.writeResult_inputs (w : Word) : (s.writeResult w).inputs = s.inputs := rfl
@[simp] theorem State.writeResult_responses (w : Word) : (s.writeResult w).responses = s.responses := rfl
@[simp] theorem State.writeResult_turns (w : Word) : (s.writeResult w).turns = s.turns := rfl
@[simp] theorem State.writeResult_patience (w : Word) : (s.writeResult w).patience = s.patience := rfl
@[simp] theorem State.writeResult_entropy (w : Word) : (s.writeResult w).entropy = s.entropy := rfl
@[simp] theorem State.writeResult_tick (w : Word) : (s.writeResult w).tick = s.tick := rfl
@[simp] theorem State.writeResult_draws (w : Word) : (s.writeResult w).draws = s.draws := rfl

/-! ### writeAttempts -/

@[simp] theorem State.writeAttempts_cfg (w : Word) : (s.writeAttempts w).cfg = s.cfg := rfl
@[simp] theorem State.writeAttempts_mem (w : Word) : (s.writeAttempts w).mem = s.mem := rfl
@[simp] theorem State.writeAttempts_dims (w : Word) : (s.writeAttempts w).dims = s.dims := rfl
@[simp] theorem State.writeAttempts_valid (w : Word) : (s.writeAttempts w).valid = s.valid := rfl
@[simp] theorem State.writeAttempts_ie (w : Word) : (s.writeAttempts w).ie = s.ie := rfl
@[simp] theorem State.writeAttempts_rngzero (w : Word) : (s.writeAttempts w).rngzero = s.rngzero := rfl
@[simp] theorem State.writeAttempts_done (w : Word) : (s.writeAttempts w).done = s.done := rfl
@[simp] theorem State.writeAttempts_errs (w : Word) : (s.writeAttempts w).errs = s.errs := rfl
@[simp] theorem State.writeAttempts_busywr (w : Word) : (s.writeAttempts w).busywr = s.busywr := rfl
@[simp] theorem State.writeAttempts_err (w : Word) : (s.writeAttempts w).err = s.err := rfl
@[simp] theorem State.writeAttempts_block (w : Word) : (s.writeAttempts w).block = s.block := rfl
@[simp] theorem State.writeAttempts_maxatt (w : Word) : (s.writeAttempts w).maxatt = s.maxatt := rfl
@[simp] theorem State.writeAttempts_tileReg (w : Word) : (s.writeAttempts w).tileReg = s.tileReg := rfl
@[simp] theorem State.writeAttempts_result (w : Word) : (s.writeAttempts w).result = s.result := rfl
@[simp] theorem State.writeAttempts_attempts (w : Word) : (s.writeAttempts w).attempts = w := rfl
@[simp] theorem State.writeAttempts_errinfo (w : Word) : (s.writeAttempts w).errinfo = s.errinfo := rfl
@[simp] theorem State.writeAttempts_phase (w : Word) : (s.writeAttempts w).phase = s.phase := rfl
@[simp] theorem State.writeAttempts_lcmd (w : Word) : (s.writeAttempts w).lcmd = s.lcmd := rfl
@[simp] theorem State.writeAttempts_ln (w : Word) : (s.writeAttempts w).ln = s.ln := rfl
@[simp] theorem State.writeAttempts_lmaxatt (w : Word) : (s.writeAttempts w).lmaxatt = s.lmaxatt := rfl
@[simp] theorem State.writeAttempts_ltile (w : Word) : (s.writeAttempts w).ltile = s.ltile := rfl
@[simp] theorem State.writeAttempts_lzero (w : Word) : (s.writeAttempts w).lzero = s.lzero := rfl
@[simp] theorem State.writeAttempts_gen (w : Word) : (s.writeAttempts w).gen = s.gen := rfl
@[simp] theorem State.writeAttempts_staged (w : Word) : (s.writeAttempts w).staged = s.staged := rfl
@[simp] theorem State.writeAttempts_rst (w : Word) : (s.writeAttempts w).rst = s.rst := rfl
@[simp] theorem State.writeAttempts_inputs (w : Word) : (s.writeAttempts w).inputs = s.inputs := rfl
@[simp] theorem State.writeAttempts_responses (w : Word) : (s.writeAttempts w).responses = s.responses := rfl
@[simp] theorem State.writeAttempts_turns (w : Word) : (s.writeAttempts w).turns = s.turns := rfl
@[simp] theorem State.writeAttempts_patience (w : Word) : (s.writeAttempts w).patience = s.patience := rfl
@[simp] theorem State.writeAttempts_entropy (w : Word) : (s.writeAttempts w).entropy = s.entropy := rfl
@[simp] theorem State.writeAttempts_tick (w : Word) : (s.writeAttempts w).tick = s.tick := rfl
@[simp] theorem State.writeAttempts_draws (w : Word) : (s.writeAttempts w).draws = s.draws := rfl

/-! ### withGen -/

@[simp] theorem State.withGen_cfg (g : GenProgress) : (s.withGen g).cfg = s.cfg := rfl
@[simp] theorem State.withGen_mem (g : GenProgress) : (s.withGen g).mem = s.mem := rfl
@[simp] theorem State.withGen_dims (g : GenProgress) : (s.withGen g).dims = s.dims := rfl
@[simp] theorem State.withGen_valid (g : GenProgress) : (s.withGen g).valid = s.valid := rfl
@[simp] theorem State.withGen_ie (g : GenProgress) : (s.withGen g).ie = s.ie := rfl
@[simp] theorem State.withGen_rngzero (g : GenProgress) : (s.withGen g).rngzero = s.rngzero := rfl
@[simp] theorem State.withGen_done (g : GenProgress) : (s.withGen g).done = s.done := rfl
@[simp] theorem State.withGen_errs (g : GenProgress) : (s.withGen g).errs = s.errs := rfl
@[simp] theorem State.withGen_busywr (g : GenProgress) : (s.withGen g).busywr = s.busywr := rfl
@[simp] theorem State.withGen_err (g : GenProgress) : (s.withGen g).err = s.err := rfl
@[simp] theorem State.withGen_block (g : GenProgress) : (s.withGen g).block = s.block := rfl
@[simp] theorem State.withGen_maxatt (g : GenProgress) : (s.withGen g).maxatt = s.maxatt := rfl
@[simp] theorem State.withGen_tileReg (g : GenProgress) : (s.withGen g).tileReg = s.tileReg := rfl
@[simp] theorem State.withGen_result (g : GenProgress) : (s.withGen g).result = s.result := rfl
@[simp] theorem State.withGen_attempts (g : GenProgress) : (s.withGen g).attempts = s.attempts := rfl
@[simp] theorem State.withGen_errinfo (g : GenProgress) : (s.withGen g).errinfo = s.errinfo := rfl
@[simp] theorem State.withGen_phase (g : GenProgress) : (s.withGen g).phase = s.phase := rfl
@[simp] theorem State.withGen_lcmd (g : GenProgress) : (s.withGen g).lcmd = s.lcmd := rfl
@[simp] theorem State.withGen_ln (g : GenProgress) : (s.withGen g).ln = s.ln := rfl
@[simp] theorem State.withGen_lmaxatt (g : GenProgress) : (s.withGen g).lmaxatt = s.lmaxatt := rfl
@[simp] theorem State.withGen_ltile (g : GenProgress) : (s.withGen g).ltile = s.ltile := rfl
@[simp] theorem State.withGen_lzero (g : GenProgress) : (s.withGen g).lzero = s.lzero := rfl
@[simp] theorem State.withGen_gen (g : GenProgress) : (s.withGen g).gen = some g := rfl
@[simp] theorem State.withGen_staged (g : GenProgress) : (s.withGen g).staged = s.staged := rfl
@[simp] theorem State.withGen_rst (g : GenProgress) : (s.withGen g).rst = s.rst := rfl
@[simp] theorem State.withGen_inputs (g : GenProgress) : (s.withGen g).inputs = s.inputs := rfl
@[simp] theorem State.withGen_responses (g : GenProgress) : (s.withGen g).responses = s.responses := rfl
@[simp] theorem State.withGen_turns (g : GenProgress) : (s.withGen g).turns = s.turns := rfl
@[simp] theorem State.withGen_patience (g : GenProgress) : (s.withGen g).patience = s.patience := rfl
@[simp] theorem State.withGen_entropy (g : GenProgress) : (s.withGen g).entropy = s.entropy := rfl
@[simp] theorem State.withGen_tick (g : GenProgress) : (s.withGen g).tick = s.tick := rfl
@[simp] theorem State.withGen_draws (g : GenProgress) : (s.withGen g).draws = s.draws := rfl

/-! ### softReset -/

@[simp] theorem State.softReset_cfg : (s.softReset).cfg = s.cfg := rfl
@[simp] theorem State.softReset_mem : (s.softReset).mem = s.mem := rfl
@[simp] theorem State.softReset_dims : (s.softReset).dims = s.dims := rfl
@[simp] theorem State.softReset_valid : (s.softReset).valid = s.valid := rfl
@[simp] theorem State.softReset_ie : (s.softReset).ie = false := rfl
@[simp] theorem State.softReset_rngzero : (s.softReset).rngzero = false := rfl
@[simp] theorem State.softReset_done : (s.softReset).done = false := rfl
@[simp] theorem State.softReset_errs : (s.softReset).errs = false := rfl
@[simp] theorem State.softReset_busywr : (s.softReset).busywr = false := rfl
@[simp] theorem State.softReset_err : (s.softReset).err = .none := rfl
@[simp] theorem State.softReset_block : (s.softReset).block = s.block := rfl
@[simp] theorem State.softReset_maxatt : (s.softReset).maxatt = s.maxatt := rfl
@[simp] theorem State.softReset_tileReg : (s.softReset).tileReg = s.tileReg := rfl
@[simp] theorem State.softReset_result : (s.softReset).result = 0 := rfl
@[simp] theorem State.softReset_attempts : (s.softReset).attempts = 0 := rfl
@[simp] theorem State.softReset_errinfo : (s.softReset).errinfo = 0 := rfl
@[simp] theorem State.softReset_phase : (s.softReset).phase = .idle := rfl
@[simp] theorem State.softReset_lcmd : (s.softReset).lcmd = s.lcmd := rfl
@[simp] theorem State.softReset_ln : (s.softReset).ln = s.ln := rfl
@[simp] theorem State.softReset_lmaxatt : (s.softReset).lmaxatt = s.lmaxatt := rfl
@[simp] theorem State.softReset_ltile : (s.softReset).ltile = s.ltile := rfl
@[simp] theorem State.softReset_lzero : (s.softReset).lzero = s.lzero := rfl
@[simp] theorem State.softReset_gen : (s.softReset).gen = none := rfl
@[simp] theorem State.softReset_staged : (s.softReset).staged = none := rfl
@[simp] theorem State.softReset_rst : (s.softReset).rst = s.rst := rfl
@[simp] theorem State.softReset_inputs : (s.softReset).inputs = s.inputs := rfl
@[simp] theorem State.softReset_responses : (s.softReset).responses = s.responses := rfl
@[simp] theorem State.softReset_turns : (s.softReset).turns = s.turns := rfl
@[simp] theorem State.softReset_patience : (s.softReset).patience = s.patience := rfl
@[simp] theorem State.softReset_entropy : (s.softReset).entropy = s.entropy := rfl
@[simp] theorem State.softReset_tick : (s.softReset).tick = s.tick := rfl
@[simp] theorem State.softReset_draws : (s.softReset).draws = s.draws := rfl

/-! ### afterDraws -/

@[simp] theorem State.afterDraws_cfg (k : Nat) : (s.afterDraws k).cfg = s.cfg := rfl
@[simp] theorem State.afterDraws_mem (k : Nat) : (s.afterDraws k).mem = s.mem := rfl
@[simp] theorem State.afterDraws_dims (k : Nat) : (s.afterDraws k).dims = s.dims := rfl
@[simp] theorem State.afterDraws_valid (k : Nat) : (s.afterDraws k).valid = s.valid := rfl
@[simp] theorem State.afterDraws_ie (k : Nat) : (s.afterDraws k).ie = s.ie := rfl
@[simp] theorem State.afterDraws_rngzero (k : Nat) : (s.afterDraws k).rngzero = s.rngzero := rfl
@[simp] theorem State.afterDraws_done (k : Nat) : (s.afterDraws k).done = s.done := rfl
@[simp] theorem State.afterDraws_errs (k : Nat) : (s.afterDraws k).errs = s.errs := rfl
@[simp] theorem State.afterDraws_busywr (k : Nat) : (s.afterDraws k).busywr = s.busywr := rfl
@[simp] theorem State.afterDraws_err (k : Nat) : (s.afterDraws k).err = s.err := rfl
@[simp] theorem State.afterDraws_block (k : Nat) : (s.afterDraws k).block = s.block := rfl
@[simp] theorem State.afterDraws_maxatt (k : Nat) : (s.afterDraws k).maxatt = s.maxatt := rfl
@[simp] theorem State.afterDraws_tileReg (k : Nat) : (s.afterDraws k).tileReg = s.tileReg := rfl
@[simp] theorem State.afterDraws_result (k : Nat) : (s.afterDraws k).result = s.result := rfl
@[simp] theorem State.afterDraws_attempts (k : Nat) : (s.afterDraws k).attempts = s.attempts := rfl
@[simp] theorem State.afterDraws_errinfo (k : Nat) : (s.afterDraws k).errinfo = s.errinfo := rfl
@[simp] theorem State.afterDraws_phase (k : Nat) : (s.afterDraws k).phase = s.phase := rfl
@[simp] theorem State.afterDraws_lcmd (k : Nat) : (s.afterDraws k).lcmd = s.lcmd := rfl
@[simp] theorem State.afterDraws_ln (k : Nat) : (s.afterDraws k).ln = s.ln := rfl
@[simp] theorem State.afterDraws_lmaxatt (k : Nat) : (s.afterDraws k).lmaxatt = s.lmaxatt := rfl
@[simp] theorem State.afterDraws_ltile (k : Nat) : (s.afterDraws k).ltile = s.ltile := rfl
@[simp] theorem State.afterDraws_lzero (k : Nat) : (s.afterDraws k).lzero = s.lzero := rfl
@[simp] theorem State.afterDraws_gen (k : Nat) : (s.afterDraws k).gen = s.gen := rfl
@[simp] theorem State.afterDraws_staged (k : Nat) : (s.afterDraws k).staged = s.staged := rfl
@[simp] theorem State.afterDraws_rst (k : Nat) : (s.afterDraws k).rst = s.rst := rfl
@[simp] theorem State.afterDraws_inputs (k : Nat) : (s.afterDraws k).inputs = s.inputs := rfl
@[simp] theorem State.afterDraws_responses (k : Nat) : (s.afterDraws k).responses = s.responses := rfl
@[simp] theorem State.afterDraws_turns (k : Nat) : (s.afterDraws k).turns = s.turns := rfl
@[simp] theorem State.afterDraws_patience (k : Nat) : (s.afterDraws k).patience = s.patience := rfl
@[simp] theorem State.afterDraws_entropy (k : Nat) :
    (s.afterDraws k).entropy = if s.lzero then s.entropy else s.entropy.drop k := rfl
@[simp] theorem State.afterDraws_tick (k : Nat) : (s.afterDraws k).tick = s.tick := rfl
@[simp] theorem State.afterDraws_draws (k : Nat) :
    (s.afterDraws k).draws = if s.lzero then s.draws else s.draws + k := rfl

/-! ### acknowledge -/

@[simp] theorem State.acknowledge_cfg (v : Word) : (s.acknowledge v).cfg = s.cfg := rfl
@[simp] theorem State.acknowledge_mem (v : Word) : (s.acknowledge v).mem = s.mem := rfl
@[simp] theorem State.acknowledge_dims (v : Word) : (s.acknowledge v).dims = s.dims := rfl
@[simp] theorem State.acknowledge_valid (v : Word) : (s.acknowledge v).valid = s.valid := rfl
@[simp] theorem State.acknowledge_ie (v : Word) : (s.acknowledge v).ie = s.ie := rfl
@[simp] theorem State.acknowledge_rngzero (v : Word) : (s.acknowledge v).rngzero = s.rngzero := rfl
@[simp] theorem State.acknowledge_done (v : Word) : (s.acknowledge v).done = (s.done && !v.getLsbD 1) := rfl
@[simp] theorem State.acknowledge_errs (v : Word) : (s.acknowledge v).errs = (s.errs && !v.getLsbD 2) := rfl
@[simp] theorem State.acknowledge_busywr (v : Word) : (s.acknowledge v).busywr = (s.busywr && !v.getLsbD 3) := rfl
@[simp] theorem State.acknowledge_err (v : Word) : (s.acknowledge v).err = s.err := rfl
@[simp] theorem State.acknowledge_block (v : Word) : (s.acknowledge v).block = s.block := rfl
@[simp] theorem State.acknowledge_maxatt (v : Word) : (s.acknowledge v).maxatt = s.maxatt := rfl
@[simp] theorem State.acknowledge_tileReg (v : Word) : (s.acknowledge v).tileReg = s.tileReg := rfl
@[simp] theorem State.acknowledge_result (v : Word) : (s.acknowledge v).result = s.result := rfl
@[simp] theorem State.acknowledge_attempts (v : Word) : (s.acknowledge v).attempts = s.attempts := rfl
@[simp] theorem State.acknowledge_errinfo (v : Word) : (s.acknowledge v).errinfo = s.errinfo := rfl
@[simp] theorem State.acknowledge_phase (v : Word) : (s.acknowledge v).phase = s.phase := rfl
@[simp] theorem State.acknowledge_lcmd (v : Word) : (s.acknowledge v).lcmd = s.lcmd := rfl
@[simp] theorem State.acknowledge_ln (v : Word) : (s.acknowledge v).ln = s.ln := rfl
@[simp] theorem State.acknowledge_lmaxatt (v : Word) : (s.acknowledge v).lmaxatt = s.lmaxatt := rfl
@[simp] theorem State.acknowledge_ltile (v : Word) : (s.acknowledge v).ltile = s.ltile := rfl
@[simp] theorem State.acknowledge_lzero (v : Word) : (s.acknowledge v).lzero = s.lzero := rfl
@[simp] theorem State.acknowledge_gen (v : Word) : (s.acknowledge v).gen = s.gen := rfl
@[simp] theorem State.acknowledge_staged (v : Word) : (s.acknowledge v).staged = s.staged := rfl
@[simp] theorem State.acknowledge_rst (v : Word) : (s.acknowledge v).rst = s.rst := rfl
@[simp] theorem State.acknowledge_inputs (v : Word) : (s.acknowledge v).inputs = s.inputs := rfl
@[simp] theorem State.acknowledge_responses (v : Word) : (s.acknowledge v).responses = s.responses := rfl
@[simp] theorem State.acknowledge_turns (v : Word) : (s.acknowledge v).turns = s.turns := rfl
@[simp] theorem State.acknowledge_patience (v : Word) : (s.acknowledge v).patience = s.patience := rfl
@[simp] theorem State.acknowledge_entropy (v : Word) : (s.acknowledge v).entropy = s.entropy := rfl
@[simp] theorem State.acknowledge_tick (v : Word) : (s.acknowledge v).tick = s.tick := rfl
@[simp] theorem State.acknowledge_draws (v : Word) : (s.acknowledge v).draws = s.draws := rfl

/-! ### noteDropped -/

@[simp] theorem State.noteDropped_cfg : (s.noteDropped).cfg = s.cfg := rfl
@[simp] theorem State.noteDropped_mem : (s.noteDropped).mem = s.mem := rfl
@[simp] theorem State.noteDropped_dims : (s.noteDropped).dims = s.dims := rfl
@[simp] theorem State.noteDropped_valid : (s.noteDropped).valid = s.valid := rfl
@[simp] theorem State.noteDropped_ie : (s.noteDropped).ie = s.ie := rfl
@[simp] theorem State.noteDropped_rngzero : (s.noteDropped).rngzero = s.rngzero := rfl
@[simp] theorem State.noteDropped_done : (s.noteDropped).done = s.done := rfl
@[simp] theorem State.noteDropped_errs : (s.noteDropped).errs = s.errs := rfl
@[simp] theorem State.noteDropped_busywr : (s.noteDropped).busywr = true := rfl
@[simp] theorem State.noteDropped_err : (s.noteDropped).err = s.err := rfl
@[simp] theorem State.noteDropped_block : (s.noteDropped).block = s.block := rfl
@[simp] theorem State.noteDropped_maxatt : (s.noteDropped).maxatt = s.maxatt := rfl
@[simp] theorem State.noteDropped_tileReg : (s.noteDropped).tileReg = s.tileReg := rfl
@[simp] theorem State.noteDropped_result : (s.noteDropped).result = s.result := rfl
@[simp] theorem State.noteDropped_attempts : (s.noteDropped).attempts = s.attempts := rfl
@[simp] theorem State.noteDropped_errinfo : (s.noteDropped).errinfo = s.errinfo := rfl
@[simp] theorem State.noteDropped_phase : (s.noteDropped).phase = s.phase := rfl
@[simp] theorem State.noteDropped_lcmd : (s.noteDropped).lcmd = s.lcmd := rfl
@[simp] theorem State.noteDropped_ln : (s.noteDropped).ln = s.ln := rfl
@[simp] theorem State.noteDropped_lmaxatt : (s.noteDropped).lmaxatt = s.lmaxatt := rfl
@[simp] theorem State.noteDropped_ltile : (s.noteDropped).ltile = s.ltile := rfl
@[simp] theorem State.noteDropped_lzero : (s.noteDropped).lzero = s.lzero := rfl
@[simp] theorem State.noteDropped_gen : (s.noteDropped).gen = s.gen := rfl
@[simp] theorem State.noteDropped_staged : (s.noteDropped).staged = s.staged := rfl
@[simp] theorem State.noteDropped_rst : (s.noteDropped).rst = s.rst := rfl
@[simp] theorem State.noteDropped_inputs : (s.noteDropped).inputs = s.inputs := rfl
@[simp] theorem State.noteDropped_responses : (s.noteDropped).responses = s.responses := rfl
@[simp] theorem State.noteDropped_turns : (s.noteDropped).turns = s.turns := rfl
@[simp] theorem State.noteDropped_patience : (s.noteDropped).patience = s.patience := rfl
@[simp] theorem State.noteDropped_entropy : (s.noteDropped).entropy = s.entropy := rfl
@[simp] theorem State.noteDropped_tick : (s.noteDropped).tick = s.tick := rfl
@[simp] theorem State.noteDropped_draws : (s.noteDropped).draws = s.draws := rfl

/-! ### respond -/

@[simp] theorem State.respond_cfg (r : Response) : (s.respond r).cfg = s.cfg := rfl
@[simp] theorem State.respond_mem (r : Response) : (s.respond r).mem = s.mem := rfl
@[simp] theorem State.respond_dims (r : Response) : (s.respond r).dims = s.dims := rfl
@[simp] theorem State.respond_valid (r : Response) : (s.respond r).valid = s.valid := rfl
@[simp] theorem State.respond_ie (r : Response) : (s.respond r).ie = s.ie := rfl
@[simp] theorem State.respond_rngzero (r : Response) : (s.respond r).rngzero = s.rngzero := rfl
@[simp] theorem State.respond_done (r : Response) : (s.respond r).done = s.done := rfl
@[simp] theorem State.respond_errs (r : Response) : (s.respond r).errs = s.errs := rfl
@[simp] theorem State.respond_busywr (r : Response) : (s.respond r).busywr = s.busywr := rfl
@[simp] theorem State.respond_err (r : Response) : (s.respond r).err = s.err := rfl
@[simp] theorem State.respond_block (r : Response) : (s.respond r).block = s.block := rfl
@[simp] theorem State.respond_maxatt (r : Response) : (s.respond r).maxatt = s.maxatt := rfl
@[simp] theorem State.respond_tileReg (r : Response) : (s.respond r).tileReg = s.tileReg := rfl
@[simp] theorem State.respond_result (r : Response) : (s.respond r).result = s.result := rfl
@[simp] theorem State.respond_attempts (r : Response) : (s.respond r).attempts = s.attempts := rfl
@[simp] theorem State.respond_errinfo (r : Response) : (s.respond r).errinfo = s.errinfo := rfl
@[simp] theorem State.respond_phase (r : Response) : (s.respond r).phase = s.phase := rfl
@[simp] theorem State.respond_lcmd (r : Response) : (s.respond r).lcmd = s.lcmd := rfl
@[simp] theorem State.respond_ln (r : Response) : (s.respond r).ln = s.ln := rfl
@[simp] theorem State.respond_lmaxatt (r : Response) : (s.respond r).lmaxatt = s.lmaxatt := rfl
@[simp] theorem State.respond_ltile (r : Response) : (s.respond r).ltile = s.ltile := rfl
@[simp] theorem State.respond_lzero (r : Response) : (s.respond r).lzero = s.lzero := rfl
@[simp] theorem State.respond_gen (r : Response) : (s.respond r).gen = s.gen := rfl
@[simp] theorem State.respond_staged (r : Response) : (s.respond r).staged = s.staged := rfl
@[simp] theorem State.respond_rst (r : Response) : (s.respond r).rst = s.rst := rfl
@[simp] theorem State.respond_inputs (r : Response) : (s.respond r).inputs = s.inputs := rfl
@[simp] theorem State.respond_responses (r : Response) : (s.respond r).responses = r :: s.responses := rfl
@[simp] theorem State.respond_turns (r : Response) : (s.respond r).turns = s.turns := rfl
@[simp] theorem State.respond_patience (r : Response) : (s.respond r).patience = s.patience := rfl
@[simp] theorem State.respond_entropy (r : Response) : (s.respond r).entropy = s.entropy := rfl
@[simp] theorem State.respond_tick (r : Response) : (s.respond r).tick = s.tick := rfl
@[simp] theorem State.respond_draws (r : Response) : (s.respond r).draws = s.draws := rfl

/-! ### withInputs -/

@[simp] theorem State.withInputs_cfg (rest : List HostOp) : (s.withInputs rest).cfg = s.cfg := rfl
@[simp] theorem State.withInputs_mem (rest : List HostOp) : (s.withInputs rest).mem = s.mem := rfl
@[simp] theorem State.withInputs_dims (rest : List HostOp) : (s.withInputs rest).dims = s.dims := rfl
@[simp] theorem State.withInputs_valid (rest : List HostOp) : (s.withInputs rest).valid = s.valid := rfl
@[simp] theorem State.withInputs_ie (rest : List HostOp) : (s.withInputs rest).ie = s.ie := rfl
@[simp] theorem State.withInputs_rngzero (rest : List HostOp) : (s.withInputs rest).rngzero = s.rngzero := rfl
@[simp] theorem State.withInputs_done (rest : List HostOp) : (s.withInputs rest).done = s.done := rfl
@[simp] theorem State.withInputs_errs (rest : List HostOp) : (s.withInputs rest).errs = s.errs := rfl
@[simp] theorem State.withInputs_busywr (rest : List HostOp) : (s.withInputs rest).busywr = s.busywr := rfl
@[simp] theorem State.withInputs_err (rest : List HostOp) : (s.withInputs rest).err = s.err := rfl
@[simp] theorem State.withInputs_block (rest : List HostOp) : (s.withInputs rest).block = s.block := rfl
@[simp] theorem State.withInputs_maxatt (rest : List HostOp) : (s.withInputs rest).maxatt = s.maxatt := rfl
@[simp] theorem State.withInputs_tileReg (rest : List HostOp) : (s.withInputs rest).tileReg = s.tileReg := rfl
@[simp] theorem State.withInputs_result (rest : List HostOp) : (s.withInputs rest).result = s.result := rfl
@[simp] theorem State.withInputs_attempts (rest : List HostOp) : (s.withInputs rest).attempts = s.attempts := rfl
@[simp] theorem State.withInputs_errinfo (rest : List HostOp) : (s.withInputs rest).errinfo = s.errinfo := rfl
@[simp] theorem State.withInputs_phase (rest : List HostOp) : (s.withInputs rest).phase = s.phase := rfl
@[simp] theorem State.withInputs_lcmd (rest : List HostOp) : (s.withInputs rest).lcmd = s.lcmd := rfl
@[simp] theorem State.withInputs_ln (rest : List HostOp) : (s.withInputs rest).ln = s.ln := rfl
@[simp] theorem State.withInputs_lmaxatt (rest : List HostOp) : (s.withInputs rest).lmaxatt = s.lmaxatt := rfl
@[simp] theorem State.withInputs_ltile (rest : List HostOp) : (s.withInputs rest).ltile = s.ltile := rfl
@[simp] theorem State.withInputs_lzero (rest : List HostOp) : (s.withInputs rest).lzero = s.lzero := rfl
@[simp] theorem State.withInputs_gen (rest : List HostOp) : (s.withInputs rest).gen = s.gen := rfl
@[simp] theorem State.withInputs_staged (rest : List HostOp) : (s.withInputs rest).staged = s.staged := rfl
@[simp] theorem State.withInputs_rst (rest : List HostOp) : (s.withInputs rest).rst = s.rst := rfl
@[simp] theorem State.withInputs_inputs (rest : List HostOp) : (s.withInputs rest).inputs = rest := rfl
@[simp] theorem State.withInputs_responses (rest : List HostOp) : (s.withInputs rest).responses = s.responses := rfl
@[simp] theorem State.withInputs_turns (rest : List HostOp) : (s.withInputs rest).turns = s.turns := rfl
@[simp] theorem State.withInputs_patience (rest : List HostOp) : (s.withInputs rest).patience = s.patience := rfl
@[simp] theorem State.withInputs_entropy (rest : List HostOp) : (s.withInputs rest).entropy = s.entropy := rfl
@[simp] theorem State.withInputs_tick (rest : List HostOp) : (s.withInputs rest).tick = s.tick := rfl
@[simp] theorem State.withInputs_draws (rest : List HostOp) : (s.withInputs rest).draws = s.draws := rfl

/-! ### beginStep -/

@[simp] theorem State.beginStep_cfg : (s.beginStep).cfg = s.cfg := rfl
@[simp] theorem State.beginStep_mem : (s.beginStep).mem = s.mem := rfl
@[simp] theorem State.beginStep_dims : (s.beginStep).dims = s.dims := rfl
@[simp] theorem State.beginStep_valid : (s.beginStep).valid = s.valid := rfl
@[simp] theorem State.beginStep_ie : (s.beginStep).ie = s.ie := rfl
@[simp] theorem State.beginStep_rngzero : (s.beginStep).rngzero = s.rngzero := rfl
@[simp] theorem State.beginStep_done : (s.beginStep).done = s.done := rfl
@[simp] theorem State.beginStep_errs : (s.beginStep).errs = s.errs := rfl
@[simp] theorem State.beginStep_busywr : (s.beginStep).busywr = s.busywr := rfl
@[simp] theorem State.beginStep_err : (s.beginStep).err = s.err := rfl
@[simp] theorem State.beginStep_block : (s.beginStep).block = s.block := rfl
@[simp] theorem State.beginStep_maxatt : (s.beginStep).maxatt = s.maxatt := rfl
@[simp] theorem State.beginStep_tileReg : (s.beginStep).tileReg = s.tileReg := rfl
@[simp] theorem State.beginStep_result : (s.beginStep).result = s.result := rfl
@[simp] theorem State.beginStep_attempts : (s.beginStep).attempts = s.attempts := rfl
@[simp] theorem State.beginStep_errinfo : (s.beginStep).errinfo = s.errinfo := rfl
@[simp] theorem State.beginStep_phase : (s.beginStep).phase = s.phase := rfl
@[simp] theorem State.beginStep_lcmd : (s.beginStep).lcmd = s.lcmd := rfl
@[simp] theorem State.beginStep_ln : (s.beginStep).ln = s.ln := rfl
@[simp] theorem State.beginStep_lmaxatt : (s.beginStep).lmaxatt = s.lmaxatt := rfl
@[simp] theorem State.beginStep_ltile : (s.beginStep).ltile = s.ltile := rfl
@[simp] theorem State.beginStep_lzero : (s.beginStep).lzero = s.lzero := rfl
@[simp] theorem State.beginStep_gen : (s.beginStep).gen = s.gen := rfl
@[simp] theorem State.beginStep_staged : (s.beginStep).staged = s.staged := rfl
@[simp] theorem State.beginStep_rst : (s.beginStep).rst = s.rst := rfl
@[simp] theorem State.beginStep_inputs : (s.beginStep).inputs = s.inputs := rfl
@[simp] theorem State.beginStep_responses : (s.beginStep).responses = s.responses := rfl
@[simp] theorem State.beginStep_turns : (s.beginStep).turns = if s.contested then s.turns.tail else s.turns := rfl
@[simp] theorem State.beginStep_patience :
    (s.beginStep).patience = if s.contested ∧ s.nextTurn = .host then s.patience - 1 else Config.coreDelay s.tick := rfl
@[simp] theorem State.beginStep_entropy : (s.beginStep).entropy = s.entropy := rfl
@[simp] theorem State.beginStep_tick : (s.beginStep).tick = s.tick + 1 := rfl
@[simp] theorem State.beginStep_draws : (s.beginStep).draws = s.draws := rfl

/-! ### The two ways a command ends -/

@[simp] theorem State.succeed_eq : s.succeed = s.complete .none 0 := rfl
@[simp] theorem State.raiseErr_eq (e : ErrCode) (info : Word) : s.raiseErr e info = s.complete e info := rfl

/-! ### Reads of operands after updates that do not touch them -/

@[simp] theorem State.stage_n (d : Nat) (dim : Word) (bytes : List Byte) :
    (s.stage d dim bytes).n = s.n := rfl
@[simp] theorem State.stage_dim (d : Nat) (dim : Word) (bytes : List Byte) (x : Nat) :
    (s.stage d dim bytes).dim x = s.dim x := rfl
@[simp] theorem State.stage_width (d : Nat) (dim : Word) (bytes : List Byte) (x : Nat) :
    (s.stage d dim bytes).width x = s.width x := rfl
@[simp] theorem State.stage_height (d : Nat) (dim : Word) (bytes : List Byte) (x : Nat) :
    (s.stage d dim bytes).height x = s.height x := rfl
@[simp] theorem State.stage_isValid (d : Nat) (dim : Word) (bytes : List Byte) (x : Nat) :
    (s.stage d dim bytes).isValid x = s.isValid x := rfl
@[simp] theorem State.stage_tile (d : Nat) (dim : Word) (bytes : List Byte) (x p q : Nat) :
    (s.stage d dim bytes).tile x p q = s.tile x p q := rfl
@[simp] theorem State.stage_pix (d : Nat) (dim : Word) (bytes : List Byte) (x r c : Nat) :
    (s.stage d dim bytes).pix x r c = s.pix x r c := rfl
@[simp] theorem State.stage_readBuf (d : Nat) (dim : Word) (bytes : List Byte) (x o : Nat) :
    (s.stage d dim bytes).readBuf x o = s.readBuf x o := rfl
@[simp] theorem State.stage_tileRows (d : Nat) (dim : Word) (bytes : List Byte) (x : Nat) :
    (s.stage d dim bytes).tileRows x = s.tileRows x := rfl
@[simp] theorem State.stage_tileCols (d : Nat) (dim : Word) (bytes : List Byte) (x : Nat) :
    (s.stage d dim bytes).tileCols x = s.tileCols x := rfl

@[simp] theorem State.writeResult_n (w : Word) :
    (s.writeResult w).n = s.n := rfl
@[simp] theorem State.writeResult_dim (w : Word) (x : Nat) :
    (s.writeResult w).dim x = s.dim x := rfl
@[simp] theorem State.writeResult_width (w : Word) (x : Nat) :
    (s.writeResult w).width x = s.width x := rfl
@[simp] theorem State.writeResult_height (w : Word) (x : Nat) :
    (s.writeResult w).height x = s.height x := rfl
@[simp] theorem State.writeResult_isValid (w : Word) (x : Nat) :
    (s.writeResult w).isValid x = s.isValid x := rfl
@[simp] theorem State.writeResult_tile (w : Word) (x p q : Nat) :
    (s.writeResult w).tile x p q = s.tile x p q := rfl
@[simp] theorem State.writeResult_pix (w : Word) (x r c : Nat) :
    (s.writeResult w).pix x r c = s.pix x r c := rfl
@[simp] theorem State.writeResult_readBuf (w : Word) (x o : Nat) :
    (s.writeResult w).readBuf x o = s.readBuf x o := rfl
@[simp] theorem State.writeResult_tileRows (w : Word) (x : Nat) :
    (s.writeResult w).tileRows x = s.tileRows x := rfl
@[simp] theorem State.writeResult_tileCols (w : Word) (x : Nat) :
    (s.writeResult w).tileCols x = s.tileCols x := rfl

@[simp] theorem State.writeAttempts_n (w : Word) :
    (s.writeAttempts w).n = s.n := rfl
@[simp] theorem State.writeAttempts_dim (w : Word) (x : Nat) :
    (s.writeAttempts w).dim x = s.dim x := rfl
@[simp] theorem State.writeAttempts_width (w : Word) (x : Nat) :
    (s.writeAttempts w).width x = s.width x := rfl
@[simp] theorem State.writeAttempts_height (w : Word) (x : Nat) :
    (s.writeAttempts w).height x = s.height x := rfl
@[simp] theorem State.writeAttempts_isValid (w : Word) (x : Nat) :
    (s.writeAttempts w).isValid x = s.isValid x := rfl
@[simp] theorem State.writeAttempts_tile (w : Word) (x p q : Nat) :
    (s.writeAttempts w).tile x p q = s.tile x p q := rfl
@[simp] theorem State.writeAttempts_pix (w : Word) (x r c : Nat) :
    (s.writeAttempts w).pix x r c = s.pix x r c := rfl
@[simp] theorem State.writeAttempts_readBuf (w : Word) (x o : Nat) :
    (s.writeAttempts w).readBuf x o = s.readBuf x o := rfl
@[simp] theorem State.writeAttempts_tileRows (w : Word) (x : Nat) :
    (s.writeAttempts w).tileRows x = s.tileRows x := rfl
@[simp] theorem State.writeAttempts_tileCols (w : Word) (x : Nat) :
    (s.writeAttempts w).tileCols x = s.tileCols x := rfl

@[simp] theorem State.withGen_n (g : GenProgress) :
    (s.withGen g).n = s.n := rfl
@[simp] theorem State.withGen_dim (g : GenProgress) (x : Nat) :
    (s.withGen g).dim x = s.dim x := rfl
@[simp] theorem State.withGen_width (g : GenProgress) (x : Nat) :
    (s.withGen g).width x = s.width x := rfl
@[simp] theorem State.withGen_height (g : GenProgress) (x : Nat) :
    (s.withGen g).height x = s.height x := rfl
@[simp] theorem State.withGen_isValid (g : GenProgress) (x : Nat) :
    (s.withGen g).isValid x = s.isValid x := rfl
@[simp] theorem State.withGen_tile (g : GenProgress) (x p q : Nat) :
    (s.withGen g).tile x p q = s.tile x p q := rfl
@[simp] theorem State.withGen_pix (g : GenProgress) (x r c : Nat) :
    (s.withGen g).pix x r c = s.pix x r c := rfl
@[simp] theorem State.withGen_readBuf (g : GenProgress) (x o : Nat) :
    (s.withGen g).readBuf x o = s.readBuf x o := rfl
@[simp] theorem State.withGen_tileRows (g : GenProgress) (x : Nat) :
    (s.withGen g).tileRows x = s.tileRows x := rfl
@[simp] theorem State.withGen_tileCols (g : GenProgress) (x : Nat) :
    (s.withGen g).tileCols x = s.tileCols x := rfl

@[simp] theorem State.afterDraws_n (k : Nat) :
    (s.afterDraws k).n = s.n := rfl
@[simp] theorem State.afterDraws_dim (k : Nat) (x : Nat) :
    (s.afterDraws k).dim x = s.dim x := rfl
@[simp] theorem State.afterDraws_width (k : Nat) (x : Nat) :
    (s.afterDraws k).width x = s.width x := rfl
@[simp] theorem State.afterDraws_height (k : Nat) (x : Nat) :
    (s.afterDraws k).height x = s.height x := rfl
@[simp] theorem State.afterDraws_isValid (k : Nat) (x : Nat) :
    (s.afterDraws k).isValid x = s.isValid x := rfl
@[simp] theorem State.afterDraws_tile (k : Nat) (x p q : Nat) :
    (s.afterDraws k).tile x p q = s.tile x p q := rfl
@[simp] theorem State.afterDraws_pix (k : Nat) (x r c : Nat) :
    (s.afterDraws k).pix x r c = s.pix x r c := rfl
@[simp] theorem State.afterDraws_readBuf (k : Nat) (x o : Nat) :
    (s.afterDraws k).readBuf x o = s.readBuf x o := rfl
@[simp] theorem State.afterDraws_tileRows (k : Nat) (x : Nat) :
    (s.afterDraws k).tileRows x = s.tileRows x := rfl
@[simp] theorem State.afterDraws_tileCols (k : Nat) (x : Nat) :
    (s.afterDraws k).tileCols x = s.tileCols x := rfl

end Sys2Proof.Machine
end

