-- ==== Sys2Proof/Laws/Commands.lean ====
section
/-! SUPPORT. Once each: what validation, staging a grid, committing it and one GENKEY attempt can do. -/

namespace Sys2Proof.Machine

variable {s t : State}

/-! ### Validation -/

theorem State.firstError_eq_none_iff (k : Checks) :
    s.firstError k = none ↔
      (∀ b ∈ k.used, b < s.cfg.nbuf) ∧ s.BlockLegal ∧ (∀ b ∈ k.sources, s.isValid b = true)
        ∧ (∀ b ∈ k.grids, s.ValidDims b) ∧ s.sameOk k.same = true := by
  unfold State.firstError
  split
  · rename_i h
    obtain ⟨b, hb, hle⟩ := List.any_eq_true.1 h
    simp only [decide_eq_true_eq] at hle
    refine ⟨fun h => by simp at h, fun h => ?_⟩
    have := h.1 b hb
    omega
  · rename_i h1
    have used : ∀ b ∈ k.used, b < s.cfg.nbuf := by
      intro b hb
      by_contra hn
      exact h1 (List.any_eq_true.2 ⟨b, hb, by simpa using hn⟩)
    split
    · rename_i h2
      exact ⟨fun h => by simp at h, fun h => absurd h.2.1 h2⟩
    · rename_i h2
      have block : s.BlockLegal := not_not.1 h2
      split
      · rename_i h3
        obtain ⟨b, hb, hv⟩ := List.any_eq_true.1 h3
        refine ⟨fun h => by simp at h, fun h => ?_⟩
        rw [h.2.2.1 b hb] at hv
        simp at hv
      · rename_i h3
        have valid : ∀ b ∈ k.sources, s.isValid b = true := by
          intro b hb
          by_contra hn
          exact h3 (List.any_eq_true.2 ⟨b, hb, by simpa using hn⟩)
        split
        · rename_i h4
          refine ⟨fun h => by simp at h, fun h => ?_⟩
          rw [Bool.or_eq_true] at h4
          rcases h4 with h4 | h4
          · obtain ⟨b, hb, hd⟩ := List.any_eq_true.1 h4
            have := h.2.2.2.1 b hb
            simp only [Bool.not_eq_true', decide_eq_false_iff_not] at hd
            exact absurd this hd
          · rw [h.2.2.2.2] at h4; simp at h4
        · rename_i h4
          rw [Bool.or_eq_true, not_or] at h4
          refine ⟨fun _ => ⟨used, block, valid, ?_, by simpa using h4.2⟩, fun _ => rfl⟩
          intro b hb
          by_contra hn
          refine h4.1 (List.any_eq_true.2 ⟨b, hb, ?_⟩)
          simp only [Bool.not_eq_true', decide_eq_false_iff_not]
          exact hn

/-- Validation finds one of the codes 2 to 5. -/
theorem State.firstError_code {k : Checks} {e : ErrCode} (h : s.firstError k = some e) :
    e = .badBuffer ∨ e = .badBlock ∨ e = .unwritten ∨ e = .dimMismatch := by
  unfold State.firstError at h
  repeat' split at h
  all_goals simp at h
  all_goals simp [← h]

/-- A validated command either completes with the first failing check, or executes. -/
theorem State.validated_cases {k : Checks} {f : State → Outcome} (h : s.validated k f = .next t) :
    (∃ e, s.firstError k = some e ∧ t = s.raiseErr e 0) ∨ (s.firstError k = none ∧ f s = .next t) := by
  unfold State.validated at h
  split at h
  · rename_i e he
    injection h with h
    exact .inl ⟨e, he, h.symm⟩
  · rename_i he
    exact .inr ⟨he, h⟩

theorem State.validated_of_none {k : Checks} {f : State → Outcome} (h : s.firstError k = none) :
    s.validated k f = f s := by
  unfold State.validated; rw [h]

theorem State.validated_of_some {k : Checks} {f : State → Outcome} {e : ErrCode} (h : s.firstError k = some e) :
    s.validated k f = .next (s.raiseErr e 0) := by
  unfold State.validated; rw [h]

/-! ### Grids -/

@[simp] theorem length_gridBytes (n w h : Nat) (f : Nat → Nat → Mat) : (gridBytes n w h f).length = w * h := by
  simp [gridBytes]

theorem gridBytes_getElem? {n w h o : Nat} (f : Nat → Nat → Mat) (ho : o < w * h) :
    (gridBytes n w h f)[o]? = some (f (o / w / n) (o % w / n) (o / w % n) (o % w % n)) := by
  simp [gridBytes, ho]

/-- The offset of entry (a, c) of tile (p, q) lies in the grid. -/
theorem tile_offset_lt {n w h p q a c : Nat} (hp : p < h / n) (hq : q < w / n) (ha : a < n) (hc : c < n) :
    p * n + a < h ∧ q * n + c < w ∧ (p * n + a) * w + (q * n + c) < w * h := by
  have hp' : (p + 1) * n ≤ h := le_trans (Nat.mul_le_mul_right n hp) (Nat.div_mul_le_self h n)
  have hq' : (q + 1) * n ≤ w := le_trans (Nat.mul_le_mul_right n hq) (Nat.div_mul_le_self w n)
  have h1 : p * n + a < h := by rw [Nat.add_mul] at hp'; omega
  have h2 : q * n + c < w := by rw [Nat.add_mul] at hq'; omega
  refine ⟨h1, h2, ?_⟩
  calc (p * n + a) * w + (q * n + c) < (p * n + a) * w + w := by omega
    _ = (p * n + a + 1) * w := by ring
    _ ≤ h * w := Nat.mul_le_mul_right w h1
    _ = w * h := Nat.mul_comm _ _

/-- Pixel (p·n + a, q·n + c) of a staged grid is entry (a, c) of tile (p, q) (40_command_common.md R164, R166). -/
theorem gridBytes_tile {n w h p q a c : Nat} (f : Nat → Nat → Mat)
    (hp : p < h / n) (hq : q < w / n) (ha : a < n) (hc : c < n) :
    (gridBytes n w h f)[(p * n + a) * w + (q * n + c)]? = some (f p q a c) := by
  obtain ⟨_, hw, ho⟩ := tile_offset_lt hp hq ha hc
  have hn : 0 < n := by omega
  have e1 : ((p * n + a) * w + (q * n + c)) / w = p * n + a := by
    rw [Nat.mul_comm (p * n + a) w, Nat.mul_add_div (by omega), Nat.div_eq_of_lt hw, Nat.add_zero]
  have e2 : ((p * n + a) * w + (q * n + c)) % w = q * n + c := by
    rw [Nat.mul_comm (p * n + a) w, Nat.mul_add_mod, Nat.mod_eq_of_lt hw]
  have e3 : ∀ x y, y < n → (x * n + y) / n = x := by
    intro x y hy
    rw [Nat.mul_comm x n, Nat.mul_add_div hn, Nat.div_eq_of_lt hy, Nat.add_zero]
  have e4 : ∀ x y, y < n → (x * n + y) % n = y := by
    intro x y hy
    rw [Nat.mul_comm x n, Nat.mul_add_mod, Nat.mod_eq_of_lt hy]
  rw [gridBytes_getElem? f ho, e1, e2, e3 p a ha, e4 p a ha, e3 q c hc, e4 q c hc]

/-! ### Committing a grid -/

theorem State.commitGrid_eq (d : Nat) (dim : Word) (bytes : List Byte) :
    s.commitGrid d dim bytes
      = { s with
          mem := s.mem.writeBytes (bufAddr d 0) bytes, dims := s.dimsWith d dim, valid := s.validWith d
          errinfo := 0, err := .none, phase := .idle, done := true, gen := none, staged := none } := by
  have he : (ErrCode.none ≠ .none) = False := by simp
  simp only [State.commitGrid, State.succeed, State.complete, State.stage, State.committedMem,
    State.committedDims, State.committedValid, ErrCode.namesTile, he, decide_false, Bool.or_false, if_true]
  rfl

/-- Completion with an error keeps the buffer file (40_command_common.md R162). -/
theorem State.raiseErr_buffers {e : ErrCode} (info : Word) (h : e ≠ .none) :
    (s.raiseErr e info).mem = s.mem ∧ (s.raiseErr e info).dims = s.dims ∧ (s.raiseErr e info).valid = s.valid := by
  simp [h]

theorem State.dim_mk (b : Nat) : s.dim b = if b < s.cfg.nbuf then s.dims[b]?.getD 0 else 0 := rfl

/-- DIM[b] after DIM[d] ← w (10_state.md R44). -/
theorem dimsWith_get (d b : Nat) (w : Word) (hd : d < 16) :
    (s.dimsWith d w)[b]?.getD 0 = if d < s.cfg.nbuf ∧ b = d then w else s.dims[b]?.getD 0 := by
  unfold State.dimsWith
  by_cases h : d < s.cfg.nbuf
  · rw [if_pos h, Vector.getElem?_setIfInBounds]
    by_cases e : d = b
    · subst e; simp [h, hd]
    · simp [e, Ne.symm e]
  · rw [if_neg h, if_neg (fun hh => h hh.1)]

theorem validBit_get (d b : Nat) : (validBit d).getLsbD b = (decide (b < 16) && decide (b = d)) := by
  simp only [validBit, BitVec.getLsbD_shiftLeft, BitVec.getLsbD_one]
  by_cases h : b = d
  · subst h; simp
  · rcases Nat.lt_or_gt_of_ne h with h | h
    · simp [h, show b ≠ d by omega]
    · simp [show ¬ b < d by omega, show b ≠ d by omega, show b - d ≠ 0 by omega]

/-- VALID[b] after VALID[d] ← 1 (10_state.md R43). -/
theorem validWith_get (d b : Nat) (hd : d < 16) :
    (s.validWith d).getLsbD b = (s.valid.getLsbD b || decide (d < s.cfg.nbuf ∧ b = d)) := by
  unfold State.validWith
  by_cases h : d < s.cfg.nbuf
  · rw [if_pos h, BitVec.getLsbD_or, validBit_get]
    by_cases e : b = d
    · subst e; simp [h, hd]
    · simp [e]
  · simp [h]

/-- Buffers of the file have disjoint address ranges (20_memory.md R81). -/
theorem bufAddr_inj {b o b' o' : Nat} (ho : o < 0x00100000) (ho' : o' < 0x00100000)
    (h : bufAddr b o = bufAddr b' o') : b = b' ∧ o = o' := by
  unfold bufAddr at h; omega

theorem bufAddr_add (b o k : Nat) : bufAddr b (o + k) = bufAddr b o + k := by
  unfold bufAddr; omega

/-- Any buffer offset is below the window stride (00_scope.md R8). -/
theorem Config.Legal.bufBytes_le {c : Config} (h : c.Legal) : c.bufBytes ≤ 0x00100000 := by
  have : c.logbuf ≤ 20 := h.2.2.2.2
  calc c.bufBytes = 2 ^ c.logbuf := rfl
    _ ≤ 2 ^ 20 := Nat.pow_le_pow_right (by norm_num) this
    _ = 0x00100000 := by norm_num

/-- What a committed grid's bytes read as, and that no other byte changes. -/
theorem State.commitGrid_read (d : Nat) (dim : Word) (bytes : List Byte) (x : Nat) :
    (s.commitGrid d dim bytes).mem.read x
      = if bufAddr d 0 ≤ x ∧ x < bufAddr d 0 + bytes.length then bytes[x - bufAddr d 0]? else s.mem.read x := by
  rw [State.commitGrid_eq]; exact Memory.read_writeBytes _ _ _ _

/-! ### One GENKEY attempt -/

/-- The four ways an attempt ends (42_key_tiler.md R216). -/
theorem State.genkeyAttempt_cases (d : Nat) (c : Bool) (g : GenProgress) :
    (s.attemptSucceeds = true ∧ g.tile + 1 = s.genCount d c ∧
      s.genkeyAttempt d c g
        = ((s.afterDraws (s.n * s.n)).writeAttempts (saturatingSucc g.total)).commitGrid d (s.dim d)
            (s.genkeyBytes d c (g.subkeys ++ [s.attemptBytes]))) ∨
    (s.attemptSucceeds = true ∧ g.tile + 1 ≠ s.genCount d c ∧
      s.genkeyAttempt d c g
        = (s.afterDraws (s.n * s.n)).withGen
            ⟨g.tile + 1, 0, saturatingSucc g.total, g.subkeys ++ [s.attemptBytes]⟩) ∨
    (s.attemptSucceeds = false ∧ (s.lmaxatt ≠ 0 ∧ g.attempts + 1 = s.lmaxatt.toNat) ∧
      s.genkeyAttempt d c g
        = ((s.afterDraws (s.n * s.n)).writeAttempts (saturatingSucc g.total)).raiseErr .genExhausted
            (s.genTileWord d g)) ∨
    (s.attemptSucceeds = false ∧ ¬ (s.lmaxatt ≠ 0 ∧ g.attempts + 1 = s.lmaxatt.toNat) ∧
      s.genkeyAttempt d c g
        = (s.afterDraws (s.n * s.n)).withGen ⟨g.tile, g.attempts + 1, saturatingSucc g.total, g.subkeys⟩) := by
  unfold State.genkeyAttempt
  by_cases h : s.attemptSucceeds = true
  · by_cases h' : g.tile + 1 = s.genCount d c
    · left; exact ⟨h, h', by simp [h, h']⟩
    · right; left; exact ⟨h, h', by simp [h, h']⟩
  · have h0 : s.attemptSucceeds = false := by simpa using h
    by_cases h' : s.lmaxatt ≠ 0 ∧ g.attempts + 1 = s.lmaxatt.toNat
    · right; right; left
      exact ⟨h0, h', by simp only [h0, if_pos h']; rfl⟩
    · right; right; right
      exact ⟨h0, h', by simp only [h0, if_neg h']; rfl⟩

end Sys2Proof.Machine
end

