-- ==== Sys2Proof/Laws/Encoding.lean ====
section
/-! SUPPORT. The fields of an assembled command word, and a word from its fields. -/

namespace Sys2Proof

/-- An assembled word as a number: its fields do not overlap. -/
theorem toNat_assemble (op d a b : Nat) (c : Bool) :
    (assemble op d a b c).toNat
      = op % 256 + 256 * (d % 16) + 4096 * (a % 16) + 65536 * (b % 16) + 1048576 * c.toNat := by
  have h : ∀ {m k : Nat} (x : BitVec m) (y : BitVec k), (x ++ y).toNat = x.toNat * 2 ^ k + y.toNat := by
    intro m k x y
    rw [BitVec.toNat_append, Nat.shiftLeft_eq, Nat.mul_comm, ← Nat.two_pow_add_eq_or_of_lt y.isLt]
  unfold assemble
  simp only [h, BitVec.toNat_ofNat, BitVec.toNat_ofBool]
  norm_num
  omega

theorem toNat_opField (w : Word) : (opField w).toNat = w.toNat % 256 := by
  simp [opField, BitVec.extractLsb'_toNat]

theorem toNat_dField (w : Word) : (dField w).toNat = w.toNat / 256 % 16 := by
  simp [dField, BitVec.extractLsb'_toNat, Nat.shiftRight_eq_div_pow]

theorem toNat_aField (w : Word) : (aField w).toNat = w.toNat / 4096 % 16 := by
  simp [aField, BitVec.extractLsb'_toNat, Nat.shiftRight_eq_div_pow]

theorem toNat_bField (w : Word) : (bField w).toNat = w.toNat / 65536 % 16 := by
  simp [bField, BitVec.extractLsb'_toNat, Nat.shiftRight_eq_div_pow]

theorem cField_eq (w : Word) : cField w = decide (w.toNat / 1048576 % 2 = 1) := by
  simp [cField, BitVec.getLsbD, Nat.testBit_eq_decide_div_mod_eq]

theorem toNat_rsvField (w : Word) : (rsvField w).toNat = w.toNat / 2097152 := by
  have := w.isLt
  simp only [rsvField, BitVec.extractLsb'_toNat, Nat.shiftRight_eq_div_pow]
  omega

@[simp] theorem opField_assemble (op d a b : Nat) (c : Bool) :
    (opField (assemble op d a b c)).toNat = op % 256 := by
  rw [toNat_opField, toNat_assemble]; omega

@[simp] theorem dField_assemble (op d a b : Nat) (c : Bool) :
    (dField (assemble op d a b c)).toNat = d % 16 := by
  rw [toNat_dField, toNat_assemble]; omega

@[simp] theorem aField_assemble (op d a b : Nat) (c : Bool) :
    (aField (assemble op d a b c)).toNat = a % 16 := by
  rw [toNat_aField, toNat_assemble]; omega

@[simp] theorem bField_assemble (op d a b : Nat) (c : Bool) :
    (bField (assemble op d a b c)).toNat = b % 16 := by
  rw [toNat_bField, toNat_assemble]; have := c.toNat_lt; omega

@[simp] theorem cField_assemble (op d a b : Nat) (c : Bool) : cField (assemble op d a b c) = c := by
  rw [cField_eq, toNat_assemble]
  cases c <;> simp <;> omega

@[simp] theorem rsvField_assemble (op d a b : Nat) (c : Bool) : rsvField (assemble op d a b c) = 0 := by
  apply BitVec.eq_of_toNat_eq
  rw [toNat_rsvField, toNat_assemble]
  have := c.toNat_lt
  show _ = 0
  omega

/-- A word with RSV = 0 is assembled from its own fields. -/
theorem assemble_fields {w : Word} (h : rsvField w = 0) :
    assemble (opField w).toNat (dField w).toNat (aField w).toNat (bField w).toNat (cField w) = w := by
  apply BitVec.eq_of_toNat_eq
  have hr : w.toNat / 2097152 = 0 := by rw [← toNat_rsvField, h]; rfl
  rw [toNat_assemble, toNat_opField, toNat_dField, toNat_aField, toNat_bField, cField_eq]
  by_cases hc : w.toNat / 1048576 % 2 = 1 <;> simp [hc] <;> omega

@[simp] theorem whenUnused_eq_ok {u : Bool} {i j : Instr} : whenUnused u i = .ok j ↔ u = true ∧ i = j := by
  unfold whenUnused
  cases u <;> simp

end Sys2Proof
end

