-- ==== Sys2Proof/Laws/Step.lean ====
section
/-! SUPPORT. Once each: what a command's meaning can answer, what a step can do, what a host transaction reaches. -/

namespace Sys2Proof.Machine

variable {s t : State}

/-! ### The meanings -/

theorem execNop_eq (s : State) : execNop s = .next s.succeed := rfl

theorem execMmul_cases {d a b : Nat} (h : execMmul d a b s = .next t) :
    (∃ e, s.firstError (mmulChecks d a b) = some e ∧ t = s.raiseErr e 0) ∨
    (s.firstError (mmulChecks d a b) = none ∧ t = s.commitGrid d (s.dim b) (s.mmulBytes a b)) := by
  rcases State.validated_cases h with h | ⟨h, h'⟩
  · exact .inl h
  · injection h' with h'; exact .inr ⟨h, h'.symm⟩

theorem execDet_cases {a : Nat} (h : execDet a s = .next t) :
    (∃ e, s.firstError (detChecks a) = some e ∧ t = s.raiseErr e 0) ∨
    (s.firstError (detChecks a) = none ∧ ¬ s.TileInRange a ∧ t = s.raiseErr .badTile 0) ∨
    (s.firstError (detChecks a) = none ∧ s.TileInRange a ∧
      t = (s.writeResult (resultWord (isOdd (s.detOfTile a)) (s.detOfTile a))).succeed) := by
  rcases State.validated_cases h with h | ⟨h, h'⟩
  · exact .inl h
  · split at h'
    · rename_i r; injection h' with h'; exact .inr (.inr ⟨h, r, h'.symm⟩)
    · rename_i r; injection h' with h'; exact .inr (.inl ⟨h, r, h'.symm⟩)

theorem execInvkey_cases {d a : Nat} {c : Bool} (h : execInvkey d a c s = .next t) :
    (∃ e, s.firstError (invkeyChecks d a) = some e ∧ t = s.raiseErr e 0) ∨
    (s.firstError (invkeyChecks d a) = none ∧ ∃ x, s.firstSingular a c = some x ∧
      t = (s.writeResult (resultWord false (s.tileDet a x))).raiseErr .nonInvertible (tileWord x.1 x.2)) ∨
    (s.firstError (invkeyChecks d a) = none ∧ s.firstSingular a c = none ∧
      t = (s.writeResult (resultWord true (s.tileDet a (0, 0)))).commitGrid d (s.dim a) (s.invkeyBytes a c)) := by
  rcases State.validated_cases h with h | ⟨h, h'⟩
  · exact .inl h
  · split at h'
    · rename_i x r; injection h' with h'; exact .inr (.inl ⟨h, x, r, h'.symm⟩)
    · rename_i r; injection h' with h'; exact .inr (.inr ⟨h, r, h'.symm⟩)

theorem execGenkey_cases {d : Nat} {c : Bool} (h : execGenkey d c s = .next t) :
    (s.gen = none ∧ ∃ e, s.firstError (genkeyChecks d) = some e ∧ t = s.raiseErr e 0) ∨
    (s.gen = none ∧ s.firstError (genkeyChecks d) = none ∧ t = s.withGen GenProgress.start) ∨
    (∃ g, s.gen = some g ∧ t = s.genkeyAttempt d c g) := by
  unfold execGenkey at h
  split at h
  · rename_i hg
    rcases State.validated_cases h with h | ⟨h, h'⟩
    · exact .inl ⟨hg, h⟩
    · injection h' with h'; exact .inr (.inl ⟨hg, h, h'.symm⟩)
  · rename_i g hg
    injection h with h; exact .inr (.inr ⟨g, hg, h.symm⟩)

theorem execTilekey_cases {d a : Nat} (h : execTilekey d a s = .next t) :
    (∃ e, s.firstError (tilekeyChecks d a) = some e ∧ t = s.raiseErr e 0) ∨
    (s.firstError (tilekeyChecks d a) = none ∧ t = s.commitGrid d (s.dim d) (s.tilekeyBytes d a)) := by
  rcases State.validated_cases h with h | ⟨h, h'⟩
  · exact .inl h
  · injection h' with h'; exact .inr ⟨h, h'.symm⟩

theorem execRand_cases {d : Nat} (h : execRand d s = .next t) :
    (∃ e, s.firstError (randChecks d) = some e ∧ t = s.raiseErr e 0) ∨
    (s.firstError (randChecks d) = none ∧
      t = (s.afterDraws (s.width d * s.height d)).commitGrid d (s.dim d)
        (s.drawBytes (s.width d * s.height d))) := by
  rcases State.validated_cases h with h | ⟨h, h'⟩
  · exact .inl h
  · injection h' with h'; exact .inr ⟨h, h'.symm⟩

theorem execXor_cases {d a b : Nat} (h : execXor d a b s = .next t) :
    (∃ e, s.firstError (xorChecks d a b) = some e ∧ t = s.raiseErr e 0) ∨
    (s.firstError (xorChecks d a b) = none ∧ t = s.commitGrid d (s.dim a) (s.xorBytes a b)) := by
  rcases State.validated_cases h with h | ⟨h, h'⟩
  · exact .inl h
  · injection h' with h'; exact .inr ⟨h, h'.symm⟩

theorem State.validated_next {k : Checks} {f : State → Outcome} (h : ∃ t, f s = .next t) :
    ∃ t, s.validated k f = .next t := by
  unfold State.validated
  split
  · exact ⟨_, rfl⟩
  · exact h

/-- No command stops the machine: a failing one completes with a code (60_exceptions.md R333). -/
theorem exec_next (i : Instr) (s : State) : ∃ t, exec i s = .next t := by
  cases i with
  | nop => exact ⟨_, rfl⟩
  | mmul d a b =>
    show ∃ t, execMmul d a b s = .next t
    exact State.validated_next ⟨_, rfl⟩
  | det a =>
    show ∃ t, execDet a s = .next t
    refine State.validated_next ?_
    by_cases h : s.TileInRange a
    · exact ⟨_, if_pos h⟩
    · exact ⟨_, if_neg h⟩
  | invkey d a c =>
    show ∃ t, execInvkey d a c s = .next t
    refine State.validated_next ?_
    split <;> exact ⟨_, rfl⟩
  | genkey d c =>
    show ∃ t, execGenkey d c s = .next t
    unfold execGenkey
    split
    · exact State.validated_next ⟨_, rfl⟩
    · exact ⟨_, rfl⟩
  | tilekey d a =>
    show ∃ t, execTilekey d a s = .next t
    exact State.validated_next ⟨_, rfl⟩
  | rand d =>
    show ∃ t, execRand d s = .next t
    exact State.validated_next ⟨_, rfl⟩
  | xor d a b =>
    show ∃ t, execXor d a b s = .next t
    exact State.validated_next ⟨_, rfl⟩

/-! ### The step -/

theorem State.mover_core (h : s.mover = some .core) : s.phase = .busy := by
  unfold State.mover at h
  split at h <;> simp_all

theorem State.mover_host (h : s.mover = some .host) : s.inputs ≠ [] := by
  unfold State.mover at h
  split at h <;> simp_all

theorem State.mover_none (h : s.mover = none) : s.phase = .idle ∧ s.inputs = [] := by
  unfold State.mover at h
  split at h <;> simp_all

/-- The Core moves on the latched command. -/
theorem coreStep_of_ok {i : Instr} (h : decode s.lcmd = .ok i) : coreStep s = exec i s := by
  unfold coreStep; rw [h]

theorem coreStep_of_error {e : DecodeError} (h : decode s.lcmd = .error e) :
    coreStep s = .next (s.raiseErr .illegalCmd 0) := by
  unfold coreStep; rw [h]

/-- A Host step that goes on is the Host's next transaction, and no plain transaction happens in reset. -/
theorem hostStep_cases (h : hostStep s = .next t) :
    (s.inputs = [] ∧ t = s) ∨
    (∃ op rest, s.inputs = op :: rest ∧ t = s.transact op rest ∧ (s.rst = false ∨ ∃ level, op = .rst level)) := by
  unfold hostStep at h
  split at h
  · rename_i hi; injection h with h; exact .inl ⟨hi, h.symm⟩
  · rename_i level rest hi
    injection h with h
    exact .inr ⟨_, _, hi, h.symm, .inr ⟨level, rfl⟩⟩
  · rename_i op rest _ hi
    split at h
    · simp at h
    · rename_i hr
      injection h with h
      exact .inr ⟨op, rest, hi, h.symm, .inl (by simpa using hr)⟩

/-- Everything a step that goes on can be. -/
theorem step_cases (h : step s = .next t) :
    (s.phase = .idle ∧ s.inputs = [] ∧ t = s) ∨
    (s.inputs ≠ [] ∧ hostStep s.beginStep = .next t) ∨
    (s.phase = .busy ∧ ((∃ i, decode s.lcmd = .ok i ∧ exec i s.beginStep = .next t) ∨
      (∃ e, decode s.lcmd = .error e ∧ t = s.beginStep.raiseErr .illegalCmd 0))) := by
  unfold step at h
  split at h
  · rename_i hm
    injection h with h
    obtain ⟨h1, h2⟩ := State.mover_none hm
    exact .inl ⟨h1, h2, h.symm⟩
  · rename_i hm; exact .inr (.inl ⟨State.mover_host hm, h⟩)
  · rename_i hm
    refine .inr (.inr ⟨State.mover_core hm, ?_⟩)
    cases hd : decode s.lcmd with
    | ok i => exact .inl ⟨i, rfl, by rwa [← coreStep_of_ok (s := s.beginStep) hd]⟩
    | error e =>
      rw [coreStep_of_error (s := s.beginStep) hd] at h
      injection h with h
      exact .inr ⟨e, rfl, h.symm⟩

/-! ### Host writes -/

/-- A write that may be dropped does one of two things (10_state.md R49). -/
theorem State.unlessBusy_cases (effect : State) :
    (s.phase = .busy ∧ s.unlessBusy effect = s.noteDropped) ∨
    (s.phase = .idle ∧ s.unlessBusy effect = effect) := by
  unfold State.unlessBusy State.busy
  cases h : s.phase
  · exact .inr ⟨rfl, by simp⟩
  · exact .inl ⟨rfl, by simp⟩

@[simp] theorem length_writtenBytes (size : AccessSize) (v : Word) :
    (writtenBytes size v).length = size.bytes := by
  simp [writtenBytes]

theorem AccessSize.bytes_pos (size : AccessSize) : 0 < size.bytes := by cases size <;> decide

/-- A buffer access reaches existing bytes only (20_memory.md R81, R85). -/
theorem targetOf_buffer {c : Config} {addr : Word} {size : AccessSize} {b o : Nat}
    (h : targetOf c addr size = .buffer b o) :
    ByteExists c b o ∧ ByteExists c b (o + size.bytes - 1) ∧ addr.toNat % size.bytes = 0
      ∧ bufAddr b o = addr.toNat := by
  unfold targetOf at h
  simp only at h
  split at h
  · split at h <;> simp at h
  · split at h
    · rename_i hw
      split at h
      · rename_i hx
        injection h with h1 h2
        subst h1; subst h2
        refine ⟨hx.2.1, hx.2.2, hx.1, ?_⟩
        simp only [bufAddr, BitVec.extractLsb'_toNat, Nat.shiftRight_eq_div_pow]
        omega
      · simp at h
    · simp at h

/-- A register access is 4 bytes wide and aligned, in the register page (20_memory.md R84). -/
theorem targetOf_reg {c : Config} {addr : Word} {size : AccessSize} {r : Reg}
    (h : targetOf c addr size = .reg r) :
    addr.toNat < 0x1000 ∧ size = .word ∧ addr.toNat % 4 = 0 ∧ r = regAt addr.toNat := by
  unfold targetOf at h
  simp only at h
  split at h
  · rename_i hp
    split at h
    · rename_i hx
      injection h with h
      exact ⟨hp, hx.1, hx.2, h.symm⟩
    · simp at h
  · split at h
    · split at h <;> simp at h
    · simp at h

end Sys2Proof.Machine
end

