-- ==== Sys2Proof/Laws/Validation.lean ====
section
/-! SUPPORT. Validation in the terms of Safety.lean, and the numbers in the words that are put together from fields. -/

namespace Sys2Proof.Machine

variable {s : State}

/-! ### Validation passes exactly when the command's row says so -/

theorem mmulChecks_pass (d a b : Nat) : s.firstError (mmulChecks d a b) = none ↔ s.Validates (.mmul d a b) := by
  rw [State.firstError_eq_none_iff]
  simp only [mmulChecks, State.sameOk, decide_eq_true_eq]; rfl

theorem detChecks_pass (a : Nat) : s.firstError (detChecks a) = none ↔ s.Validates (.det a) := by
  rw [State.firstError_eq_none_iff]
  simp only [detChecks, State.sameOk]
  exact and_congr_right' (and_congr_right' (and_congr_right' (and_congr_right' (by simp))))

theorem invkeyChecks_pass (d a : Nat) (c : Bool) :
    s.firstError (invkeyChecks d a) = none ↔ s.Validates (.invkey d a c) := by
  rw [State.firstError_eq_none_iff]
  simp only [invkeyChecks, State.sameOk]
  exact and_congr_right' (and_congr_right' (and_congr_right' (and_congr_right' (by simp))))

theorem genkeyChecks_pass (d : Nat) (c : Bool) :
    s.firstError (genkeyChecks d) = none ↔ s.Validates (.genkey d c) := by
  rw [State.firstError_eq_none_iff]
  simp only [genkeyChecks, State.sameOk]
  exact and_congr_right' (and_congr_right' (and_congr_right' (and_congr_right' (by simp))))

theorem tilekeyChecks_pass (d a : Nat) : s.firstError (tilekeyChecks d a) = none ↔ s.Validates (.tilekey d a) := by
  rw [State.firstError_eq_none_iff]
  simp only [tilekeyChecks, State.sameOk]
  exact and_congr_right' (and_congr_right' (and_congr_right' (and_congr_right' (by simp))))

theorem randChecks_pass (d : Nat) : s.firstError (randChecks d) = none ↔ s.Validates (.rand d) := by
  rw [State.firstError_eq_none_iff]
  simp only [randChecks, State.sameOk]
  exact and_congr_right' (and_congr_right' (and_congr_right' (and_congr_right' (by simp))))

theorem xorChecks_pass (d a b : Nat) : s.firstError (xorChecks d a b) = none ↔ s.Validates (.xor d a b) := by
  rw [State.firstError_eq_none_iff]
  simp only [xorChecks, State.sameOk, decide_eq_true_eq]; rfl

/-! ### What each meaning answers when validation passes, and when it fails -/

theorem execMmul_of_validates {d a b : Nat} (h : s.Validates (.mmul d a b)) :
    execMmul d a b s = .next (s.commitGrid d (s.dim b) (s.mmulBytes a b)) :=
  State.validated_of_none ((mmulChecks_pass d a b).2 h)

theorem execMmul_of_error {d a b : Nat} {e : ErrCode} (h : s.firstError (mmulChecks d a b) = some e) :
    execMmul d a b s = .next (s.raiseErr e 0) := State.validated_of_some h

theorem execDet_of_validates {a : Nat} (h : s.Validates (.det a)) :
    execDet a s = if s.TileInRange a then
      .next (s.writeResult (resultWord (isOdd (s.detOfTile a)) (s.detOfTile a))).succeed
    else .next (s.raiseErr .badTile 0) :=
  State.validated_of_none ((detChecks_pass a).2 h)

theorem execDet_of_error {a : Nat} {e : ErrCode} (h : s.firstError (detChecks a) = some e) :
    execDet a s = .next (s.raiseErr e 0) := State.validated_of_some h

theorem execInvkey_of_singular {d a : Nat} {c : Bool} {x : Nat × Nat} (h : s.Validates (.invkey d a c))
    (hx : s.firstSingular a c = some x) :
    execInvkey d a c s
      = .next ((s.writeResult (resultWord false (s.tileDet a x))).raiseErr .nonInvertible (tileWord x.1 x.2)) := by
  unfold execInvkey
  rw [State.validated_of_none ((invkeyChecks_pass d a c).2 h), hx]

theorem execInvkey_of_invertible {d a : Nat} {c : Bool} (h : s.Validates (.invkey d a c))
    (hx : s.firstSingular a c = none) :
    execInvkey d a c s
      = .next ((s.writeResult (resultWord true (s.tileDet a (0, 0)))).commitGrid d (s.dim a) (s.invkeyBytes a c)) := by
  unfold execInvkey
  rw [State.validated_of_none ((invkeyChecks_pass d a c).2 h), hx]

theorem execInvkey_of_error {d a : Nat} {c : Bool} {e : ErrCode} (h : s.firstError (invkeyChecks d a) = some e) :
    execInvkey d a c s = .next (s.raiseErr e 0) := State.validated_of_some h

theorem execGenkey_start {d : Nat} {c : Bool} (hg : s.gen = none) :
    execGenkey d c s = s.validated (genkeyChecks d) fun s => .next (s.withGen GenProgress.start) := by
  unfold execGenkey; rw [hg]

theorem execGenkey_attempt {d : Nat} {c : Bool} {g : GenProgress} (hg : s.gen = some g) :
    execGenkey d c s = .next (s.genkeyAttempt d c g) := by
  unfold execGenkey; rw [hg]

theorem execTilekey_of_validates {d a : Nat} (h : s.Validates (.tilekey d a)) :
    execTilekey d a s = .next (s.commitGrid d (s.dim d) (s.tilekeyBytes d a)) :=
  State.validated_of_none ((tilekeyChecks_pass d a).2 h)

theorem execTilekey_of_error {d a : Nat} {e : ErrCode} (h : s.firstError (tilekeyChecks d a) = some e) :
    execTilekey d a s = .next (s.raiseErr e 0) := State.validated_of_some h

theorem execRand_of_validates {d : Nat} (h : s.Validates (.rand d)) :
    execRand d s
      = .next ((s.afterDraws (s.width d * s.height d)).commitGrid d (s.dim d)
          (s.drawBytes (s.width d * s.height d))) :=
  State.validated_of_none ((randChecks_pass d).2 h)

theorem execRand_of_error {d : Nat} {e : ErrCode} (h : s.firstError (randChecks d) = some e) :
    execRand d s = .next (s.raiseErr e 0) := State.validated_of_some h

theorem execXor_of_validates {d a b : Nat} (h : s.Validates (.xor d a b)) :
    execXor d a b s = .next (s.commitGrid d (s.dim a) (s.xorBytes a b)) :=
  State.validated_of_none ((xorChecks_pass d a b).2 h)

theorem execXor_of_error {d a b : Nat} {e : ErrCode} (h : s.firstError (xorChecks d a b) = some e) :
    execXor d a b s = .next (s.raiseErr e 0) := State.validated_of_some h

/-- A code validation finds is an error that names no tile. -/
theorem State.firstError_names {k : Checks} {e : ErrCode} (h : s.firstError k = some e) :
    e ≠ .none ∧ e.namesTile = false := by
  rcases State.firstError_code h with rfl | rfl | rfl | rfl <;> simp [ErrCode.namesTile]

/-- A grid with legal block size and dimensions has at least one tile (40_command_common.md R164, R169). -/
theorem State.tiles_pos {b : Nat} (hb : s.BlockLegal) (h : s.ValidDims b) : 0 < s.tileRows b ∧ 0 < s.tileCols b := by
  obtain ⟨h1, h2, _, h4, h5⟩ := h
  have hn := hb.1
  exact ⟨Nat.div_pos (Nat.le_of_dvd (by omega) (Nat.dvd_of_mod_eq_zero h5)) (by omega),
    Nat.div_pos (Nat.le_of_dvd (by omega) (Nat.dvd_of_mod_eq_zero h4)) (by omega)⟩

theorem mem_blockOrder {rows cols p q : Nat} : (p, q) ∈ blockOrder rows cols ↔ p < rows ∧ q < cols := by
  simp [blockOrder]

/-- An error completion in the terms of Safety.lean. -/
theorem State.raiseErr_eq_failedWith {e : ErrCode} {info : Word} (h : e ≠ .none) (hi : e.namesTile = false → info = 0) :
    s.raiseErr e info = s.failedWith e info := by
  have hd : decide (e ≠ .none) = true := by simp [h]
  have hinfo : (if e.namesTile then info else 0) = info := by
    cases hn : e.namesTile
    · simp [hi hn]
    · simp
  simp only [State.raiseErr, State.complete, State.failedWith, if_neg h, hd, Bool.or_true, hinfo]

/-- A completion without error when nothing is staged, in the terms of Safety.lean. -/
theorem State.succeed_eq_finished (h : s.staged = none) : s.succeed = s.finished := by
  simp only [State.succeed, State.complete, State.finished, State.committedMem, State.committedDims,
    State.committedValid, h, if_true, ErrCode.namesTile, ne_eq, not_true, decide_false, Bool.or_false]
  rfl

/-! ### Runs -/

/-- A run whose first step goes on is that step and a shorter run. -/
theorem run_succ {t : State} {k : Nat} (h : step s = .next t) :
    Host.Core.run Sys2Proof.core (k + 1) s = Host.Core.run Sys2Proof.core k t := by
  have e : Sys2Proof.core.step s = .next t := h
  simp only [Host.Core.run]
  rw [e]

/-! ### Words -/

theorem toNat_append_eq {m k : Nat} (x : BitVec m) (y : BitVec k) :
    (x ++ y).toNat = x.toNat * 2 ^ k + y.toNat := by
  rw [BitVec.toNat_append, Nat.shiftLeft_eq, Nat.mul_comm, ← Nat.two_pow_add_eq_or_of_lt y.isLt]

theorem toNat_resultWord (inv : Bool) (d : Byte) : (resultWord inv d).toNat = d.toNat + 256 * inv.toNat := by
  simp only [resultWord, toNat_append_eq, BitVec.toNat_ofBool, BitVec.toNat_ofNat]
  norm_num; omega

theorem isOdd_toNat (d : Byte) : (isOdd d).toNat = d.toNat % 2 := by
  unfold isOdd
  rcases Nat.mod_two_eq_zero_or_one d.toNat with h | h <;> simp [h]

theorem isOdd_iff (d : Byte) : isOdd d = true ↔ d.toNat % 2 = 1 := by simp [isOdd]

theorem highHalf_eq (w : Word) : highHalf w = w.toNat / 65536 := by
  have := w.isLt
  simp only [highHalf, BitVec.extractLsb'_toNat, Nat.shiftRight_eq_div_pow]
  omega

theorem lowHalf_eq (w : Word) : lowHalf w = w.toNat % 65536 := by
  simp [lowHalf, BitVec.extractLsb'_toNat]

theorem toNat_tileWord (p q : Nat) : (tileWord p q).toNat = (p % 65536) * 65536 + q % 65536 := by
  simp only [tileWord, toNat_append_eq, BitVec.toNat_ofNat]
  norm_num

theorem highHalf_tileWord {p q : Nat} (h : p < 65536) : highHalf (tileWord p q) = p := by
  rw [highHalf_eq, toNat_tileWord]; omega

theorem lowHalf_tileWord {p q : Nat} (h : q < 65536) : lowHalf (tileWord p q) = q := by
  rw [lowHalf_eq, toNat_tileWord]; omega

theorem toNat_saturatingSucc (w : Word) : (saturatingSucc w).toNat = min (w.toNat + 1) 0xFFFFFFFF := by
  unfold saturatingSucc
  split
  · rename_i h; subst h; decide
  · rename_i h
    have h1 : w.toNat ≠ 0xFFFFFFFF := fun hh => h (BitVec.eq_of_toNat_eq hh)
    have h2 := w.isLt
    have h3 : BitVec.toNat (1 : Word) = 1 := rfl
    rw [BitVec.toNat_add, h3]
    omega

/-- The running total counts on, or stays at its ceiling (42_key_tiler.md R218). -/
theorem saturatingSucc_cases (w : Word) :
    ((saturatingSucc w).toNat = w.toNat + 1 ∧ w ≠ 0xFFFFFFFF) ∨ (saturatingSucc w = 0xFFFFFFFF ∧ w = 0xFFFFFFFF) := by
  by_cases h : w = 0xFFFFFFFF
  · right; simp [saturatingSucc, h]
  · left
    have h1 : w.toNat ≠ 0xFFFFFFFF := fun hh => h (BitVec.eq_of_toNat_eq hh)
    have h2 := w.isLt
    have h3 : BitVec.toNat (1 : Word) = 1 := rfl
    refine ⟨?_, h⟩
    unfold saturatingSucc
    rw [if_neg h, BitVec.toNat_add, h3]
    omega

end Sys2Proof.Machine
end

