-- ==== Sys2Proof/Laws/Grid.lean ====
section
/-! SUPPORT. What a committed grid leaves: its descriptor, its VALID bit, its bytes and tiles, and every other buffer. -/

namespace Sys2Proof.Machine

variable {s : State} {d : Nat}

/-- A completed command that commits changes only the buffer file and the lifecycle fields
(40_command_common.md R162, R167). -/
theorem State.commitGrid_finishedFrom (d : Nat) (dim : Word) (bytes : List Byte) :
    (s.commitGrid d dim bytes).FinishedFrom s := by
  rw [State.commitGrid_eq]; rfl

/-- The destination takes the committed descriptor and becomes written. -/
theorem State.commitGrid_destination (hl : s.cfg.Legal) (hd : d < s.cfg.nbuf) (dim : Word) (bytes : List Byte) :
    (s.commitGrid d dim bytes).dim d = dim ∧ (s.commitGrid d dim bytes).isValid d = true := by
  have h16 : d < 16 := lt_of_lt_of_le hd hl.2.2.2.1
  rw [State.commitGrid_eq]
  constructor
  · show (if d < s.cfg.nbuf then (s.dimsWith d dim)[d]?.getD 0 else 0) = dim
    rw [if_pos hd, dimsWith_get d d dim h16, if_pos ⟨hd, rfl⟩]
  · show (decide (d < s.cfg.nbuf) && (s.validWith d).getLsbD d) = true
    rw [validWith_get d d h16]; simp [hd]

/-- Every other buffer keeps its descriptor and its VALID bit. -/
theorem State.commitGrid_other (dim : Word) (bytes : List Byte) {b : Nat} (h : b ≠ d) :
    (s.commitGrid d dim bytes).dim b = s.dim b ∧ (s.commitGrid d dim bytes).isValid b = s.isValid b := by
  rw [State.commitGrid_eq]
  constructor
  · show (if b < s.cfg.nbuf then (s.dimsWith d dim)[b]?.getD 0 else 0) = s.dim b
    unfold State.dimsWith State.dim
    split
    · split
      · rw [Vector.getElem?_setIfInBounds_ne (Ne.symm h)]
      · rfl
    · rfl
  · show (decide (b < s.cfg.nbuf) && (s.validWith d).getLsbD b) = s.isValid b
    unfold State.validWith State.isValid
    split
    · rw [BitVec.getLsbD_or, validBit_get]; simp [h]
    · rfl

/-- The committed bytes read back at their offsets. -/
theorem State.commitGrid_byte (d : Nat) (dim : Word) (bytes : List Byte) {o : Nat} (h : o < bytes.length) :
    (s.commitGrid d dim bytes).mem.read (bufAddr d o) = bytes[o]? := by
  have e : bufAddr d o = bufAddr d 0 + o := by rw [← bufAddr_add, Nat.zero_add]
  rw [State.commitGrid_read, e, if_pos ⟨by omega, by omega⟩, Nat.add_sub_cancel_left]

/-- No byte outside the committed ones changes (10_state.md R47). -/
theorem State.commitGrid_outside (d : Nat) (dim : Word) (bytes : List Byte) {x : Nat}
    (h : ∀ o, o < bytes.length → x ≠ bufAddr d o) : (s.commitGrid d dim bytes).mem.read x = s.mem.read x := by
  rw [State.commitGrid_read, if_neg]
  rintro ⟨h1, h2⟩
  refine h (x - bufAddr d 0) (by omega) ?_
  have := bufAddr_add d 0 (x - bufAddr d 0)
  rw [Nat.zero_add] at this
  omega

/-- A committed grid holds its tiles (40_command_common.md R164, R166). -/
theorem State.commitGrid_tiles (hl : s.cfg.Legal) (hd : d < s.cfg.nbuf) (dim : Word) (f : Nat → Nat → Mat) :
    (s.commitGrid d dim (gridBytes s.n (lowHalf dim) (highHalf dim) f)).HoldsTiles d f := by
  have hdim := (State.commitGrid_destination hl hd dim (gridBytes s.n (lowHalf dim) (highHalf dim) f)).1
  have hn : (s.commitGrid d dim (gridBytes s.n (lowHalf dim) (highHalf dim) f)).n = s.n := by
    rw [State.commitGrid_eq]; rfl
  intro p q hp hq i j hi hj
  simp only [State.tileRows, State.tileCols, State.width, State.height, hdim, hn] at hp hq hi hj ⊢
  obtain ⟨_, _, ho⟩ := tile_offset_lt hp hq hi hj
  rw [State.commitGrid_byte _ _ _ (by rw [length_gridBytes]; omega), gridBytes_tile f hp hq hi hj]

/-- A tile that is stored reads as what is stored. -/
theorem State.HoldsTile.matEq {p q : Nat} {m : Mat} (h : s.HoldsTile d p q m) : MatEq s.n (s.tile d p q) m := by
  intro i j hi hj
  have := h i j hi hj
  simp only [State.tile, State.pix, State.readBuf, this]

end Sys2Proof.Machine
end

