-- ==== Sys2Proof/Laws/HostPort.lean ====
section
/-! SUPPORT. Where an address of the host port leads, and what a write may do. -/

namespace Sys2Proof.Machine

variable {s : State}

/-! ### The register page -/

theorem ite_eq_ctrl {p : Prop} [Decidable p] {x y : Reg} (hx : x ≠ .ctrl) (h : (if p then x else y) = .ctrl) :
    y = .ctrl := by
  split at h
  · exact absurd h hx
  · exact h

/-- CTRL is at offset 0x008 only (20_memory.md R83). -/
theorem regAt_ctrl {off : Nat} (h : regAt off = .ctrl) : off = 0x008 := by
  by_contra hne
  unfold regAt at h
  rw [if_neg hne] at h
  refine Reg.noConfusion (P := False) (?_ : Reg.unmapped = .ctrl)
  repeat replace h := ite_eq_ctrl (by simp) h
  exact h

theorem regAt_dim {off : Nat} (h : 0x40 ≤ off) (h' : off < 0x80) : regAt off = .dim ((off - 0x40) / 4) := by
  unfold regAt
  repeat rw [if_neg (by omega)]
  rw [if_pos ⟨h, h'⟩]

theorem regAt_unmapped {off : Nat} (h4 : off % 4 = 0) (h : (0x30 ≤ off ∧ off < 0x40) ∨ 0x80 ≤ off) :
    regAt off = .unmapped := by
  unfold regAt
  repeat rw [if_neg (by omega)]

/-- The read-only registers and the offsets that are not listed (20_memory.md R82, R83). -/
theorem regAt_readOnly {off : Nat} (h4 : off % 4 = 0)
    (h : off = 0 ∨ off = 4 ∨ (0x20 ≤ off ∧ off < 0x2C) ∨ (0x30 ≤ off ∧ off < 0x40) ∨ 0x80 ≤ off) :
    regAt off = .id ∨ regAt off = .param ∨ regAt off = .result ∨ regAt off = .attempts ∨ regAt off = .errinfo
      ∨ regAt off = .unmapped := by
  rcases h with rfl | rfl | h | h | h
  · exact .inl rfl
  · exact .inr (.inl rfl)
  · have : off = 0x20 ∨ off = 0x24 ∨ off = 0x28 := by omega
    rcases this with rfl | rfl | rfl
    · exact .inr (.inr (.inl rfl))
    · exact .inr (.inr (.inr (.inl rfl)))
    · exact .inr (.inr (.inr (.inr (.inl rfl))))
  · exact .inr (.inr (.inr (.inr (.inr (regAt_unmapped h4 (.inl h))))))
  · exact .inr (.inr (.inr (.inr (.inr (regAt_unmapped h4 (.inr h))))))

/-- A read-only or unlisted register ignores writes (20_memory.md R82). -/
theorem State.writeReg_readOnly (v : Word) {r : Reg}
    (h : r = .id ∨ r = .param ∨ r = .result ∨ r = .attempts ∨ r = .errinfo ∨ r = .unmapped) :
    s.writeReg v r = s := by
  rcases h with rfl | rfl | rfl | rfl | rfl | rfl <;> rfl

/-- An aligned word access of the register page reaches a register (20_memory.md R80, R84). -/
theorem targetOf_page {c : Config} {addr : Word} (h : addr.toNat < 0x1000) (h4 : addr.toNat % 4 = 0) :
    targetOf c addr .word = .reg (regAt addr.toNat) := by
  have hw : AccessSize.word = .word ∧ addr.toNat % 4 = 0 := ⟨rfl, h4⟩
  unfold targetOf
  rw [if_pos h, if_pos hw]

/-! ### The buffer window -/

/-- An aligned access of existing bytes reaches them (20_memory.md R81, R85). -/
theorem targetOf_window {c : Config} {addr : Word} {size : AccessSize} (h1 : 0x01000000 ≤ addr.toNat)
    (h2 : addr.toNat < 0x02000000) (h3 : addr.toNat % size.bytes = 0)
    (h4 : (addr.toNat / 0x00100000) % 16 < c.nbuf)
    (h5 : addr.toNat % 0x00100000 + size.bytes ≤ c.bufBytes) :
    targetOf c addr size = .buffer ((addr.toNat / 0x00100000) % 16) (addr.toNat % 0x00100000) := by
  have hs := size.bytes_pos
  have e1 : (addr.extractLsb' 20 4).toNat = (addr.toNat / 0x00100000) % 16 := by
    simp [BitVec.extractLsb'_toNat, Nat.shiftRight_eq_div_pow]
  have e2 : (addr.extractLsb' 0 20).toNat = addr.toNat % 0x00100000 := by
    simp [BitVec.extractLsb'_toNat]
  unfold targetOf
  simp only
  rw [if_neg (by omega), if_pos ⟨h1, by omega⟩, e1, e2, if_pos]
  exact ⟨h3, ⟨h4, by omega⟩, h4, by omega⟩

/-- The window, the buffer and the offset an access that reaches a buffer names (20_memory.md R81). -/
theorem targetOf_buffer_window {c : Config} {addr : Word} {size : AccessSize} {b o : Nat}
    (h : targetOf c addr size = .buffer b o) :
    0x01000000 ≤ addr.toNat ∧ addr.toNat < 0x02000000 ∧ b = (addr.toNat / 0x00100000) % 16
      ∧ o = addr.toNat % 0x00100000 := by
  unfold targetOf at h
  simp only at h
  split at h
  · split at h <;> simp at h
  · split at h
    · rename_i hw
      split at h
      · injection h with h1 h2
        subst h1; subst h2
        refine ⟨hw.1, by omega, ?_, ?_⟩ <;> simp [BitVec.extractLsb'_toNat, Nat.shiftRight_eq_div_pow]
      · simp at h
    · simp at h

/-- The window address of BUF[b][o]. -/
theorem toNat_bufAddr {b o : Nat} (hb : b < 16) (ho : o < 0x00100000) :
    (BitVec.ofNat 32 (bufAddr b o)).toNat = bufAddr b o ∧ bufAddr b o / 0x00100000 % 16 = b
      ∧ bufAddr b o % 0x00100000 = o := by
  have h : (BitVec.ofNat 32 (bufAddr b o)).toNat = bufAddr b o := by simp [bufAddr]; omega
  exact ⟨h, by unfold bufAddr; omega, by unfold bufAddr; omega⟩

/-! ### Writes -/

theorem State.unlessBusy_busy (h : s.phase = .busy) (effect : State) : s.unlessBusy effect = s.noteDropped := by
  simp [State.unlessBusy, State.busy, h]

theorem State.unlessBusy_idle (h : s.phase = .idle) (effect : State) : s.unlessBusy effect = effect := by
  simp [State.unlessBusy, State.busy, h]

/-- The bytes a buffer write stores read back (20_memory.md R87, R88). -/
theorem State.loadBytes_byte (b o : Nat) (size : AccessSize) (v : Word) {j : Nat} (h : j < size.bytes) :
    (s.loadBytes b o (writtenBytes size v)).mem.read (bufAddr b (o + j)) = some (byteOfWord v j) := by
  show (s.mem.writeBytes (bufAddr b o) (writtenBytes size v)).read _ = _
  rw [Memory.read_writeBytes, bufAddr_add, length_writtenBytes, if_pos ⟨by omega, by omega⟩, Nat.add_sub_cancel_left]
  simp [writtenBytes, h]

/-- No other byte changes. -/
theorem State.loadBytes_outside (b o : Nat) (size : AccessSize) (v : Word) {x : Nat}
    (h : ∀ j, j < size.bytes → x ≠ bufAddr b (o + j)) :
    (s.loadBytes b o (writtenBytes size v)).mem.read x = s.mem.read x := by
  show (s.mem.writeBytes (bufAddr b o) (writtenBytes size v)).read _ = _
  rw [Memory.read_writeBytes, length_writtenBytes, if_neg]
  rintro ⟨h1, h2⟩
  refine h (x - bufAddr b o) (by omega) ?_
  rw [bufAddr_add]; omega

/-- The word of up to four bytes, little-endian (20_memory.md R87). -/
theorem toNat_wordOfBytes_cons (v : Byte) (vs : List Byte) :
    (wordOfBytes (v :: vs)).toNat = v.toNat + 256 * ((wordOfBytes vs).toNat % 2 ^ 24) := by
  have h1 : ((wordOfBytes vs <<< 8) : Word).toNat = 256 * ((wordOfBytes vs).toNat % 2 ^ 24) := by
    rw [BitVec.toNat_shiftLeft, Nat.shiftLeft_eq]; have := (wordOfBytes vs).isLt; omega
  have h2 : (v.setWidth 32).toNat = v.toNat := by simp; have := v.isLt; omega
  have h3 : v.toNat < 2 ^ 8 := v.isLt
  show ((v.setWidth 32) ||| (wordOfBytes vs <<< 8)).toNat = _
  rw [BitVec.toNat_or, h1, h2, Nat.or_comm, show 256 * ((wordOfBytes vs).toNat % 2 ^ 24)
    = 2 ^ 8 * ((wordOfBytes vs).toNat % 2 ^ 24) by norm_num, ← Nat.two_pow_add_eq_or_of_lt h3]
  omega

end Sys2Proof.Machine
end

