-- ==== Sys2Proof/Laws/PerInstr.lean ====
section
/-! SUPPORT. Statements made per command: one lemma for each constructor. -/

namespace Sys2Proof.Laws.EncodingFields

/-- A well-formed command's word has RSV = 0 and its row's OP value (30_encoding.md R121, R125). -/
def Statement (i : Instr) : Prop :=
  i.WellFormed = true → rsvField (encode i) = 0 ∧ opField (encode i) = opField i.matchWord

theorem nop : Statement .nop := fun _ => by decide

theorem mmul (d a b : Nat) : Statement (.mmul d a b) := fun _ =>
  ⟨rsvField_assemble _ _ _ _ _, BitVec.eq_of_toNat_eq (opField_assemble _ _ _ _ _)⟩

theorem det (a : Nat) : Statement (.det a) := fun _ =>
  ⟨rsvField_assemble _ _ _ _ _, BitVec.eq_of_toNat_eq (opField_assemble _ _ _ _ _)⟩

theorem invkey (d a : Nat) (c : Bool) : Statement (.invkey d a c) := fun _ =>
  ⟨rsvField_assemble _ _ _ _ _, BitVec.eq_of_toNat_eq (opField_assemble _ _ _ _ _)⟩

theorem genkey (d : Nat) (c : Bool) : Statement (.genkey d c) := fun _ =>
  ⟨rsvField_assemble _ _ _ _ _, BitVec.eq_of_toNat_eq (opField_assemble _ _ _ _ _)⟩

theorem tilekey (d a : Nat) : Statement (.tilekey d a) := fun _ =>
  ⟨rsvField_assemble _ _ _ _ _, BitVec.eq_of_toNat_eq (opField_assemble _ _ _ _ _)⟩

theorem rand (d : Nat) : Statement (.rand d) := fun _ =>
  ⟨rsvField_assemble _ _ _ _ _, BitVec.eq_of_toNat_eq (opField_assemble _ _ _ _ _)⟩

theorem xor (d a b : Nat) : Statement (.xor d a b) := fun _ =>
  ⟨rsvField_assemble _ _ _ _ _, BitVec.eq_of_toNat_eq (opField_assemble _ _ _ _ _)⟩

end Sys2Proof.Laws.EncodingFields
end

