-- ==== Sys2Proof/Laws/Turns.lean ====
section
/-! SUPPORT. Who moves, what a step's own bookkeeping leaves, how the Core's delay runs out, and runs put together. -/

namespace Sys2Proof.Machine

variable {s t : State}

/-! ### Who moves -/

theorem State.nextTurn_core : s.nextTurn = .core ↔ (∃ ts, s.turns = .core :: ts) ∨ (s.turns = [] ∧ s.patience = 0) := by
  unfold State.nextTurn
  cases s.turns with
  | nil => by_cases h : s.patience = 0 <;> simp [h]
  | cons who ts => simp

theorem State.nextTurn_host : s.nextTurn = .host ↔ (∃ ts, s.turns = .host :: ts) ∨ (s.turns = [] ∧ s.patience ≠ 0) := by
  unfold State.nextTurn
  cases s.turns with
  | nil => by_cases h : s.patience = 0 <;> simp [h]
  | cons who ts => simp

/-- A busy machine's next step is the Core's exactly when it is its turn. -/
theorem State.mover_core_iff (h : s.phase = .busy) : s.mover = some .core ↔ s.CoreTurn := by
  unfold State.mover State.CoreTurn
  rw [h]
  cases s.inputs with
  | nil => simp
  | cons op rest => simp [State.nextTurn_core]

/-- The next step of a machine with a transaction to come is the Host's exactly when it is its turn. -/
theorem State.mover_host_iff {op : HostOp} {rest : List HostOp} (h : s.inputs = op :: rest) :
    s.mover = some .host ↔ s.HostTurn := by
  unfold State.mover State.HostTurn
  rw [h]
  cases s.phase with
  | idle => simp
  | busy => simp [State.nextTurn_host]

/-- A busy machine is in the Core's turn or has a transaction whose turn it is. -/
theorem State.turn_cases (h : s.phase = .busy) :
    s.CoreTurn ∨ (∃ op rest, s.inputs = op :: rest) ∧ s.mover = some .host := by
  cases hi : s.inputs with
  | nil => exact .inl (.inl hi)
  | cons op rest =>
    cases hn : s.nextTurn with
    | core => exact .inl (.inr (State.nextTurn_core.1 hn))
    | host => exact .inr ⟨⟨op, rest, rfl⟩, by unfold State.mover; rw [h, hi]; simp [hn]⟩

theorem step_of_core (h : s.mover = some .core) : step s = coreStep s.beginStep := by
  unfold step; rw [h]

theorem step_of_host (h : s.mover = some .host) : step s = hostStep s.beginStep := by
  unfold step; rw [h]

/-- With the reset input released the Host's step is its next transaction. -/
theorem hostStep_transact {op : HostOp} {rest : List HostOp} (h : s.inputs = op :: rest) (hr : s.rst = false) :
    hostStep s = .next (s.transact op rest) := by
  unfold hostStep
  rw [h, hr]
  cases op <;> rfl

/-! ### The bookkeeping of a step -/

/-- Before a step of the Core. -/
theorem State.beginStep_core (h : s.phase = .busy) (ht : s.CoreTurn) :
    s.beginStep = { s with
      tick := s.tick + 1, turns := if s.inputs.isEmpty then s.turns else s.turns.tail,
      patience := Config.coreDelay s.tick } := by
  unfold State.beginStep State.contested State.busy
  rw [h]
  cases hi : s.inputs with
  | nil => simp
  | cons op rest =>
    have hn : s.nextTurn = .core := State.nextTurn_core.2 (ht.resolve_left (by simp [hi]))
    simp [hn]

/-- Before a step of the Host while PHASE = BUSY. -/
theorem State.beginStep_host (h : s.phase = .busy) (hm : s.mover = some .host) :
    s.beginStep = { s with tick := s.tick + 1, turns := s.turns.tail, patience := s.patience - 1 } := by
  have hi : s.inputs ≠ [] := State.mover_host hm
  unfold State.beginStep State.contested State.busy
  rw [h]
  cases hc : s.inputs with
  | nil => exact absurd hc hi
  | cons op rest =>
    have hn : s.nextTurn = .host := by
      unfold State.mover at hm; rw [h, hc] at hm; simpa using hm
    simp [hn]

/-- Before a step of the Host while PHASE = IDLE. -/
theorem State.beginStep_idle (h : s.phase = .idle) :
    s.beginStep = { s with tick := s.tick + 1, patience := Config.coreDelay s.tick } := by
  simp [State.beginStep, State.contested, State.busy, h]

/-! ### The Core's delay runs out (70_reset_and_hazards.md R370) -/

/-- A Host step while PHASE = BUSY brings the Core's step nearer. -/
theorem State.waitBound_beginStep (h : s.phase = .busy) (hm : s.mover = some .host) :
    s.beginStep.waitBound + 1 ≤ s.waitBound := by
  have hn : s.nextTurn = .host := by
    have hi : s.inputs ≠ [] := State.mover_host hm
    unfold State.mover at hm
    rw [h] at hm
    cases hc : s.inputs with
    | nil => exact absurd hc hi
    | cons op rest => rw [hc] at hm; simpa using hm
  rw [State.beginStep_host h hm]
  unfold State.waitBound
  rcases State.nextTurn_host.1 hn with ⟨ts, h'⟩ | ⟨h', hp⟩
  · simp only [h', List.tail_cons, List.length_cons]; omega
  · simp only [h', List.tail_nil, List.length_nil]; omega

/-- What the outside supplies, and the step's own bookkeeping, are the same in both states. -/
abbrev State.SameOutside (t s : State) : Prop :=
  t.rst = s.rst ∧ t.responses = s.responses ∧ t.turns = s.turns ∧ t.patience = s.patience ∧ t.entropy = s.entropy ∧
    t.tick = s.tick ∧ t.draws = s.draws

theorem State.unlessBusy_outside {e : State} (h : e.SameOutside s) : (s.unlessBusy e).SameOutside s := by
  unfold State.unlessBusy
  split
  · exact ⟨rfl, rfl, rfl, rfl, rfl, rfl, rfl⟩
  · exact h

/-- No host write touches what the outside supplies. -/
theorem State.writeReg_outside (v : Word) (r : Reg) : (s.writeReg v r).SameOutside s := by
  cases r with
  | id | param | result | attempts | errinfo | unmapped | status => exact ⟨rfl, rfl, rfl, rfl, rfl, rfl, rfl⟩
  | ctrl =>
    show (s.writeCtrl v).SameOutside s
    unfold State.writeCtrl
    split <;> exact ⟨rfl, rfl, rfl, rfl, rfl, rfl, rfl⟩
  | cmd | block | maxatt | tile | valid | dim =>
    exact State.unlessBusy_outside ⟨rfl, rfl, rfl, rfl, rfl, rfl, rfl⟩

theorem State.memWrite_outside (addr : Word) (size : AccessSize) (v : Word) :
    (s.memWrite addr size v).SameOutside s := by
  unfold State.memWrite
  split
  · exact State.writeReg_outside v _
  · exact State.unlessBusy_outside ⟨rfl, rfl, rfl, rfl, rfl, rfl, rfl⟩
  · exact ⟨rfl, rfl, rfl, rfl, rfl, rfl, rfl⟩

/-- The Host's step on a write is that write, and its answer. -/
theorem State.transact_write (addr : Word) (size : AccessSize) (v : Word) (rest : List HostOp) :
    s.transact (.write addr size v) rest = { s.memWrite addr size v with
      inputs := rest, responses := s.memWriteResponse addr size :: s.responses } := by
  rw [← (State.memWrite_outside (s := s) addr size v).2.1]
  rfl

/-- No step of the Host touches the choice of who moves or the draws, beyond the step's own bookkeeping. -/
theorem hostStep_turns (h : hostStep s = .next t) :
    t.turns = s.turns ∧ t.patience = s.patience ∧ t.entropy = s.entropy ∧ t.draws = s.draws := by
  rcases hostStep_cases h with ⟨_, rfl⟩ | ⟨op, rest, _, rfl, _⟩
  · exact ⟨rfl, rfl, rfl, rfl⟩
  · cases op with
    | read addr size => exact ⟨rfl, rfl, rfl, rfl⟩
    | write addr size v =>
      obtain ⟨_, _, h1, h2, h3, _, h4⟩ := State.memWrite_outside (s := s) addr size v
      exact ⟨h1, h2, h3, h4⟩
    | wait =>
      unfold State.transact
      dsimp only
      split <;> exact ⟨rfl, rfl, rfl, rfl⟩
    | rst level =>
      unfold State.transact State.driveReset
      dsimp only
      split <;> exact ⟨rfl, rfl, rfl, rfl⟩

/-! ### Runs -/

theorem run_zero (s : State) : Host.Core.run Sys2Proof.core 0 s = .next s := rfl

/-- A run of no fault and no refusal, then another. -/
theorem run_add {k m : Nat} (h : Host.Core.run Sys2Proof.core k s = .next t) :
    Host.Core.run Sys2Proof.core (k + m) s = Host.Core.run Sys2Proof.core m t := by
  induction k generalizing s with
  | zero => injection h with h; subst h; rw [Nat.zero_add]
  | succ k ih =>
    cases hs : step s with
    | next u =>
      rw [run_succ hs] at h
      rw [Nat.succ_add, run_succ hs, ih h]
    | fault r => exact nomatch r
    | refused r =>
      have e : Sys2Proof.core.step s = .refused r := hs
      simp only [Host.Core.run] at h
      rw [e] at h
      exact absurd h (by simp)

/-! ### Draws -/

/-- After k draws the next ones are those that came k later (10_state.md R52). -/
theorem State.nextDraw_afterDraws (k i : Nat) : (s.afterDraws k).nextDraw i = s.nextDraw (k + i) := by
  unfold State.nextDraw State.afterDraws
  cases hz : s.lzero
  · simp [List.getElem?_drop, Nat.add_assoc]
  · simp

/-- The attempt that is next, and those after it. -/
theorem State.attemptAt_zero : s.attemptAt 0 = s.attemptSucceeds := by
  unfold State.attemptAt State.attemptSucceeds State.attemptBytes State.drawBytes
  congr 2
  exact List.map_congr_left fun i _ => by simp

/-- The step's own bookkeeping draws nothing. -/
theorem State.attemptAt_beginStep (j : Nat) : s.beginStep.attemptAt j = s.attemptAt j := rfl

theorem State.attemptAt_afterDraws (j : Nat) : (s.afterDraws (s.n * s.n)).attemptAt j = s.attemptAt (j + 1) := by
  have hn : (s.afterDraws (s.n * s.n)).n = s.n := rfl
  unfold State.attemptAt
  rw [hn]
  congr 2
  refine List.map_congr_left fun i _ => ?_
  rw [State.nextDraw_afterDraws]
  congr 1; ring

/-- What the coming attempts draw depends on the latched scalars and the source only. -/
theorem State.successesIn_congr (hn : t.ln = s.ln) (hz : t.lzero = s.lzero) (he : t.entropy = s.entropy)
    (hd : t.draws = s.draws) (k : Nat) : t.successesIn k = s.successesIn k := by
  unfold State.successesIn State.attemptAt State.nextDraw State.n
  rw [hn, hz, he, hd]

/-- Of the next k + 1 attempts the first one is made now. -/
theorem State.successesIn_succ (k : Nat) :
    s.successesIn (k + 1) = (s.afterDraws (s.n * s.n)).successesIn k + if s.attemptSucceeds then 1 else 0 := by
  unfold State.successesIn
  rw [List.range_succ_eq_map, List.countP_cons, List.countP_map, State.attemptAt_zero]
  congr 2
  funext j
  exact (State.attemptAt_afterDraws j).symm

end Sys2Proof.Machine
end

