-- ==== Sys2Proof/Machine/HostProgram.lean ====
section
/-! DEFINITION. The host program syntax and the protocols, as the host transactions they stand for. -/

namespace Sys2Proof.Machine

/-- `ISSUE w` (30_encoding.md R130). -/
def hostIssue (w : Word) : List HostOp := [.write 0x010 .word w]

/-- A command mnemonic in a host program: `ISSUE <word>` then `WAIT` (30_encoding.md R130). -/
def hostCommand (i : Instr) : List HostOp := hostIssue (encode i) ++ [.wait]

/-- `SETCTRL v`. -/
def hostSetCtrl (v : Word) : List HostOp := [.write 0x008 .word v]

/-- `SETBLK n`. -/
def hostSetBlk (n : Nat) : List HostOp := [.write 0x014 .word (BitVec.ofNat 32 n)]

/-- `SETMAX k`. -/
def hostSetMax (k : Nat) : List HostOp := [.write 0x018 .word (BitVec.ofNat 32 k)]

/-- `SETTILE r, c`. -/
def hostSetTile (r c : Nat) : List HostOp := [.write 0x01C .word (tileWord r c)]

/-- `SETDIM bX, w, h`. -/
def hostSetDim (x w h : Nat) : List HostOp :=
  [.write (BitVec.ofNat 32 (0x040 + 4 * x)) .word (tileWord h w)]

/-- `LOAD bX, o, [v0, v1, ...]`: one byte write for each value, in order. -/
def hostLoad (x o : Nat) : List Byte → List HostOp
  | [] => []
  | v :: vs => .write (BitVec.ofNat 32 (bufAddr x o)) .byte (v.setWidth 32) :: hostLoad x (o + 1) vs

/-- `PEEK bX, o, s`. -/
def hostPeek (x o : Nat) (size : AccessSize) : List HostOp := [.read (BitVec.ofNat 32 (bufAddr x o)) size]

/-- `DROP bX`. -/
def hostDrop (x : Nat) : List HostOp := [.write 0x02C .word (1#32 <<< x)]

/-- `ACK`: clears DONE, ERRS and BUSYWR. -/
def hostAck : List HostOp := [.write 0x00C .word 0x0000000E]

/-! ### The source's routines (30_encoding.md R131) -/

/-- `generate_subkey(n)`. -/
def generateSubkey (x n : Nat) : List HostOp := hostSetBlk n ++ hostSetDim x n n ++ hostCommand (.genkey x false)

/-- `generate_key(w, h, n, complex)`. -/
def generateKey (x w h n : Nat) (complex : Bool) : List HostOp :=
  hostSetBlk n ++ hostSetDim x w h ++ hostCommand (.genkey x complex)

/-- `transform(key, ch, n, dir)`: the direction has no field (30_encoding.md R124). -/
def transformChannel (d key ch n : Nat) : List HostOp := hostSetBlk n ++ hostCommand (.mmul d key ch)

/-- `mask(channels)` for one channel. -/
def maskChannel (m d ch w h : Nat) : List HostOp :=
  hostSetDim m w h ++ hostCommand (.rand m) ++ hostCommand (.xor d m ch)

/-- `unmask(masked, mask_key)` for one channel. -/
def unmaskChannel (d m masked : Nat) : List HostOp := hostCommand (.xor d m masked)

/-- `invert_key(key, n, complex)`. -/
def invertKey (d key n : Nat) (complex : Bool) : List HostOp := hostSetBlk n ++ hostCommand (.invkey d key complex)

/-- One channel of an encryption (46_protocols.md R300): the matrix layer first, the mask layer second. -/
def encryptChannel (key p t m e w h : Nat) : List HostOp :=
  hostCommand (.mmul t key p) ++ maskChannel m e t w h

/-- Encryption of an image, one (P, T, M, E) of buffers per channel, with a generated key (46_protocols.md R300). -/
def encryptImage (key w h n : Nat) (complex : Bool) (channels : List (Nat × Nat × Nat × Nat)) : List HostOp :=
  generateKey key w h n complex
    ++ channels.flatMap fun x => encryptChannel key x.1 x.2.1 x.2.2.1 x.2.2.2 w h

/-- Decryption of an image, one (E, M, U, P) of buffers per channel (46_protocols.md R302): unmask every channel,
invert the key, transform every channel, drop the masks. -/
def decryptImage (key inverse n : Nat) (complex : Bool) (channels : List (Nat × Nat × Nat × Nat)) : List HostOp :=
  hostSetBlk n
    ++ (channels.flatMap fun x => unmaskChannel x.2.2.1 x.2.1 x.1)
    ++ hostCommand (.invkey inverse key complex)
    ++ (channels.flatMap fun x => hostCommand (.mmul x.2.2.2 inverse x.2.2.1))
    ++ channels.flatMap fun x => hostDrop x.2.1

end Sys2Proof.Machine
end

