-- ==== Sys2Proof/Tests/Slice0.lean ====
section
/-! SUPPORT. Tests on fixed values: the vectors of 95_test_vectors.md and hand calculation from the rules. Every expected value is the spec's own. -/

namespace Sys2Proof.Tests

open Sys2Proof Sys2Proof.Machine

/-! ### Helpers -/

/-- Buffer `b` loaded as `SETDIM b, w, h` then `LOAD b, 0, bytes` leave it (95_test_vectors.md, conventions). -/
def buffer (b w h : Nat) (bytes : List Byte) (s : State) : State :=
  (s.writeDim b (tileWord h w)).loadBytes b 0 bytes

/-- The reset state, block size `n` latched, a command running. -/
def running (n : Nat) : State :=
  { State.reset with ln := BitVec.ofNat 8 n, phase := .busy }

/-- The state a meaning answers. -/
def after (o : Outcome) : State :=
  match o with
  | .next s => s
  | .fault _ => State.reset
  | .refused _ => State.reset

/-- The meaning goes on. -/
def goesOn (o : Outcome) : Bool :=
  match o with
  | .next _ => true
  | .fault _ => false
  | .refused _ => false

/-- The written bytes of buffer `b` from offset 0. -/
def contents (s : State) (b k : Nat) : List (Option Byte) :=
  (List.range k).map fun o => s.mem.read (bufAddr b o)

/-- What a command leaves in STATUS and in the first `k` bytes of buffer `b`. -/
def seen (i : Instr) (s : State) (b k : Nat) : Word × List (Option Byte) :=
  ((after (exec i s)).statusWord, contents (after (exec i s)) b k)

def key2 : List Byte := [1, 2, 3, 5]
def chan2 : List Byte := [10, 20, 30, 40]

/-! ### Well-formedness: an ill-formed term for each check -/

theorem test_illformed_mmul_d : (Instr.mmul 16 0 0).WellFormed = false := by decide
theorem test_illformed_mmul_a : (Instr.mmul 0 16 0).WellFormed = false := by decide
theorem test_illformed_mmul_b : (Instr.mmul 0 0 16).WellFormed = false := by decide
theorem test_illformed_det : (Instr.det 16).WellFormed = false := by decide
theorem test_illformed_invkey_d : (Instr.invkey 16 0 true).WellFormed = false := by decide
theorem test_illformed_invkey_a : (Instr.invkey 0 16 true).WellFormed = false := by decide
theorem test_illformed_genkey : (Instr.genkey 16 false).WellFormed = false := by decide
theorem test_illformed_tilekey_d : (Instr.tilekey 16 0).WellFormed = false := by decide
theorem test_illformed_tilekey_a : (Instr.tilekey 0 16).WellFormed = false := by decide
theorem test_illformed_rand : (Instr.rand 16).WellFormed = false := by decide
theorem test_illformed_xor_d : (Instr.xor 16 0 0).WellFormed = false := by decide
theorem test_illformed_xor_a : (Instr.xor 0 16 0).WellFormed = false := by decide
theorem test_illformed_xor_b : (Instr.xor 0 0 16).WellFormed = false := by decide
theorem test_wellformed_top : (Instr.xor 15 15 15).WellFormed = true := by decide

/-! ### Decoding: words written out from 30_encoding.md R121 and R125 (`R…R C BBBB AAAA DDDD OOOOOOOO`) -/

theorem test_decode_nop : decode 0b00000000000000000000000000000000 = .ok .nop := by decide
theorem test_decode_mmul : decode 0b00000000000000100000010100000001 = .ok (.mmul 5 0 2) := by decide
theorem test_decode_det : decode 0b00000000000000001111000000000010 = .ok (.det 15) := by decide
theorem test_decode_invkey : decode 0b00000000000000000000000100000011 = .ok (.invkey 1 0 false) := by decide
theorem test_decode_invkey_c : decode 0b00000000000100000000000100000011 = .ok (.invkey 1 0 true) := by decide
theorem test_decode_genkey : decode 0b00000000000000000000010000000100 = .ok (.genkey 4 false) := by decide
theorem test_decode_genkey_c : decode 0b00000000000100000000010000000100 = .ok (.genkey 4 true) := by decide
theorem test_decode_tilekey : decode 0b00000000000000000000010000000101 = .ok (.tilekey 4 0) := by decide
theorem test_decode_rand : decode 0b00000000000000000000011000000110 = .ok (.rand 6) := by decide
theorem test_decode_xor : decode 0b00000000000000100100001100000111 = .ok (.xor 3 4 2) := by decide

/-- V110 to V119: none of these words is a command. -/
theorem test_decode_illegal :
    ([0x00000100, 0x00000008, 0x000000FF, 0x00120501, 0x00000102, 0x00001404, 0x00200002, 0x80000001,
      0x00100405, 0x00010606] : List Word).map (fun w => decodeTableWord 32 w.toNat) = List.replicate 10 none := by
  decide

/-- The examples of 30_encoding.md R129. -/
theorem test_encode_examples :
    (encode (.mmul 5 0 2), encode (.invkey 1 0 true), encode (.xor 3 4 2))
      = (0x00020501, 0x00100103, 0x00024307) := by decide

theorem test_assembly : Instr.assembly (.invkey 1 0 true) = "INVKEY.C b1, b0" := by decide

/-! ### The fetch the host asks about: every row's word runs as the first command after reset -/

theorem test_fetch_nop : goesOn (step (State.reset.withFetchWord 32 0x00000000)) = true := by decide
theorem test_fetch_mmul :
    (after (step (State.reset.withFetchWord 32 0x00000001))).statusWord = 0x00000406 := by decide
theorem test_fetch_genkey :
    (after (step (State.reset.withFetchWord 32 0x00000004))).statusWord = 0x00000506 := by decide

/-! ### DET (V1, V5, V6, V8, V9, V11) -/

/-- V1 and V11: DET 255, INV 1; BAD_TILE when LTILE is out of range. -/
theorem test_det_v1 :
    ((after (exec (.det 0) (buffer 0 2 2 key2 (running 2)))).statusWord,
      (after (exec (.det 0) (buffer 0 2 2 key2 (running 2)))).result,
      (after (exec (.det 0) { buffer 0 2 2 key2 (running 2) with ltile := 0x00010000 })).statusWord)
      = (0x00000002, 0x000001FF, 0x00000606) := by decide

/-- V6: the 3×3 matrix K3 has DetMod 185. -/
theorem test_det_v6 :
    (after (exec (.det 1) (buffer 1 3 3 [6, 24, 1, 13, 16, 10, 20, 17, 15] (running 3)))).result = 0x000001B9 := by
  decide

/-! ### MMUL (V20, V21, V24) -/

/-- V20. -/
theorem test_mmul_v20 :
    seen (.mmul 5 0 2) (buffer 0 2 2 key2 (buffer 2 2 2 chan2 (running 2))) 5 4
      = (0x00000002, [some 70, some 100, some 180, some 4]) := by decide

/-- V24: two tiles, in place. -/
theorem test_mmul_v24 :
    seen (.mmul 2 0 2) (buffer 0 4 2 [1, 2, 1, 0, 3, 5, 0, 1]
      (buffer 2 4 2 [10, 20, 7, 8, 30, 40, 9, 10] (running 2))) 2 8
      = (0x00000002, [some 70, some 100, some 7, some 8, some 180, some 4, some 9, some 10]) := by decide

/-! ### INVKEY (V33, V38) -/

/-- V33. -/
theorem test_invkey_v33 :
    seen (.invkey 1 0 false) (buffer 0 3 3 [6, 24, 1, 13, 16, 10, 20, 17, 15] (running 3)) 1 9
      = (0x00000002, [some 118, some 113, some 224, some 173, some 118, some 217, some 5, some 74, some 104]) := by
  decide

/-- V38: tile (0,1) is singular; nothing is committed. -/
theorem test_invkey_v38 :
    let t := after (exec (.invkey 1 0 true) (buffer 0 4 2 [1, 2, 2, 0, 3, 5, 0, 2] (running 2)))
    (t.statusWord, t.result, t.errinfo, t.dim 1, t.isValid 1) = (0x00000706, 0x00000004, 0x00000001, 0, false) := by
  decide

/-! ### GENKEY (V42's tiling, V44's last attempt) -/

/-- V42's last attempt: draws 7, 1, 0, 1 after sub-key [1, 2, 3, 5] and one failure. -/
theorem test_genkey_v42 :
    let s := { buffer 4 4 2 [] (running 2) with gen := some ⟨1, 1, 2, [key2]⟩, entropy := [7, 1, 0, 1] }
    let t := after (exec (.genkey 4 true) s)
    (t.statusWord, t.attempts, contents t 4 8)
      = (0x00000002, 3, [some 1, some 2, some 7, some 1, some 3, some 5, some 0, some 1]) := by decide

/-- V44: the third zero attempt exhausts the search. -/
theorem test_genkey_v44 :
    let s := { buffer 4 2 2 [9, 9, 9, 9] (running 2) with gen := some ⟨0, 2, 2, []⟩, lzero := true, lmaxatt := 3 }
    let t := after (exec (.genkey 4 false) s)
    (t.statusWord, t.attempts, t.errinfo, contents t 4 4)
      = (0x00000806, 3, 0, [some 9, some 9, some 9, some 9]) := by decide

/-! ### TILEKEY, RAND, XOR, NOP (V51, V54, V58, V74) -/

/-- V51. -/
theorem test_tilekey_v51 :
    seen (.tilekey 4 0) (buffer 0 3 3 [1, 0, 0, 0, 1, 0, 0, 0, 1] (buffer 4 6 3 [] (running 3))) 4 18
      = (0x00000002, ([1, 0, 0, 1, 0, 0, 0, 1, 0, 0, 1, 0, 0, 0, 1, 0, 0, 1] : List Byte).map some) := by decide

/-- V54. -/
theorem test_rand_v54 :
    seen (.rand 6) { buffer 6 2 1 [] (running 1) with entropy := [0xA5, 0x3C] } 6 2
      = (0x00000002, [some 0xA5, some 0x3C]) := by decide

/-- V58. -/
theorem test_xor_v58 :
    seen (.xor 3 0 2) (buffer 0 2 1 [0xA5, 0x3C] (buffer 2 2 1 [0x0F, 0xF0] (running 1))) 3 2
      = (0x00000002, [some 0xAA, some 0xCC]) := by decide

/-- V74: after an error completion NOP clears ERR and keeps ERRS. -/
theorem test_nop_v74 :
    (after (exec .nop { running 1 with errs := true, err := .illegalCmd })).statusWord = 0x00000006 := by decide

/-! ### The byte inverse (45_inverter.md R282) -/

/-- The table of R282, d then d⁻¹, first half. -/
theorem test_inverse_table_low :
    ((List.range 64).map fun k => (byteInverse (BitVec.ofNat 8 (2 * k + 1))).toNat)
      = [1, 171, 205, 183, 57, 163, 197, 239, 241, 27, 61, 167, 41, 19, 53, 223, 225, 139, 173, 151, 25, 131, 165,
         207, 209, 251, 29, 135, 9, 243, 21, 191, 193, 107, 141, 119, 249, 99, 133, 175, 177, 219, 253, 103, 233,
         211, 245, 159, 161, 75, 109, 87, 217, 67, 101, 143, 145, 187, 221, 71, 201, 179, 213, 127] := by decide

/-- The table of R282, d then d⁻¹, second half. -/
theorem test_inverse_table_high :
    ((List.range 64).map fun k => (byteInverse (BitVec.ofNat 8 (2 * k + 129))).toNat)
      = [129, 43, 77, 55, 185, 35, 69, 111, 113, 155, 189, 39, 169, 147, 181, 95, 97, 11, 45, 23, 153, 3, 37, 79,
         81, 123, 157, 7, 137, 115, 149, 63, 65, 235, 13, 247, 121, 227, 5, 47, 49, 91, 125, 231, 105, 83, 117, 31,
         33, 203, 237, 215, 89, 195, 229, 15, 17, 59, 93, 199, 73, 51, 85, 255] := by decide

/-! ### The host port (program P5 of 95_test_vectors.md) -/

theorem test_port_id : State.reset.memRead 0x00000000 .word = .data 0x48434331 := by decide
theorem test_port_param : State.reset.memRead 0x00000004 .word = .data 0x00141008 := by decide
theorem test_port_half_register : State.reset.memRead 0x00000002 .half = .busError := by decide
theorem test_port_misaligned_register : State.reset.memRead 0x00000006 .word = .busError := by decide
theorem test_port_outside : State.reset.memRead 0x02000000 .word = .busError := by decide
theorem test_port_misaligned_buffer : State.reset.memRead 0x01200001 .half = .busError := by decide

/-- P5 steps 11 to 14: bytes assemble little-endian. -/
theorem test_port_little_endian :
    ((((State.reset.memWrite 0x01200000 .byte 0x11).memWrite 0x01200001 .byte 0x22).memWrite 0x01200002 .half
      0x4433).memRead 0x01200000 .word) = .data 0x44332211 := by decide

/-- P5 steps 10, 11, 19 to 21: a load sets VALID, a DIM write clears it. -/
theorem test_port_valid :
    let s := (State.reset.memWrite 0x00000048 .word 0x00010004).memWrite 0x01200000 .byte 0x11
    (s.memRead 0x0000002C .word, (s.memWrite 0x00000048 .word 0x00010004).memRead 0x0000002C .word)
      = (.data 0x00000004, .data 0x00000000) := by decide

/-- V30's configuration: PARAM, and the absent buffer b5 and b4. -/
theorem test_port_absent_buffers :
    let s := State.powerOn ⟨8, 4, 20⟩
    (s.memRead 0x00000004 .word, (s.memWrite 0x00000054 .word 0x00010001).memRead 0x00000054 .word,
      s.memRead 0x01400000 .byte) = (.data 0x00140408, .data 0, .busError) := by decide

/-- P4 steps 14 and 18: a CMD write while busy is dropped and sets BUSYWR (BUSY, ERRS and BUSYWR read 1). -/
theorem test_port_dropped :
    ({ running 2 with errs := true }.memWrite 0x00000010 .word 0).statusWord = 0x0000000D := by decide

/-- A host step accepts a command: STATUS reads BUSY = 1 (V76). -/
theorem test_port_accept :
    (after (step { State.reset with inputs := hostIssue 0, ie := true, done := true })).statusWord = 1 := by decide

/-- A transaction during reset is refused. -/
theorem test_port_in_reset :
    goesOn (step { State.reset with inputs := hostIssue 0, rst := true }) = false := by decide

/-! ### Witnesses: for each obligation with hypotheses, a concrete state and operands that meet all of them -/

theorem exec_after (i : Instr) (s : State) : exec i s = .next (after (exec i s)) := by
  obtain ⟨t, h⟩ := exec_next i s
  rw [h]; rfl

theorem next_of_goesOn {o : Outcome} (h : goesOn o = true) : o = .next (after o) := by
  cases o with
  | next s => rfl
  | fault r => simp [goesOn] at h
  | refused r => simp [goesOn] at h

theorem matEq_of {n : Nat} {x y : Mat} (h : ∀ i, i < n → ∀ j, j < n → x i j = y i j) : MatEq n x y :=
  fun i j hi hj => h i hi j hj

/-- A key in b0 and a channel in b2, block size 2, a command running. -/
def two : State := buffer 0 2 2 key2 (buffer 2 2 2 chan2 (running 2))

/-- A key of two tiles in b0, the second singular (V38), block size 2. -/
def half : State := buffer 0 4 2 [1, 2, 2, 0, 3, 5, 0, 2] (running 2)

/-- GENKEY b4 running on a 2×2 grid, no attempt made yet. -/
def searching : State :=
  { State.reset with
    dims := (State.reset.writeDim 4 0x00020002).dims, ln := 2, phase := .busy, lcmd := 0x00000404
    gen := some ⟨0, 0, 0, []⟩, entropy := key2 }

/-- Key, channel and mask of one byte each in b0, b1 and b2, block size 1. -/
def one : State := buffer 0 1 1 [3] (buffer 1 1 1 [10] (buffer 2 1 1 [5] (running 1)))

theorem absentOk_reference {s : State} (h : s.cfg = Config.reference) : s.AbsentOk := by
  intro b hb
  rw [h] at hb
  have h16 : 16 ≤ b := hb
  exact ⟨by rw [Vector.getElem?_eq_none h16]; rfl, BitVec.getLsbD_of_ge _ _ h16⟩

/-- The word GENKEY b4 or GENKEY.C b4. -/
def genkeyWord (c : Bool) : Word := if c then 0x00100404 else 0x00000404

theorem searching_validates (c : Bool) : searching.Validates (.genkey 4 c) := (genkeyChecks_pass 4 c).1 (by decide)

theorem searching_inv (c lzero : Bool) (lmaxatt : Word) (h : lmaxatt = 0 ∨ 0 < lmaxatt.toNat) :
    State.Inv { searching with lcmd := genkeyWord c, lzero := lzero, lmaxatt := lmaxatt } := by
  have config : searching.cfg.Legal := by decide
  have word : decode (genkeyWord c) = .ok (.genkey 4 c) := by cases c <;> decide
  have tiles : 0 < searching.genCount 4 c := by cases c <;> decide
  refine ⟨config, ⟨List.Pairwise.nil, fun x hx => absurd hx List.not_mem_nil⟩, absentOk_reference rfl, rfl,
    ⟨rfl, fun _ => ⟨rfl, rfl, rfl⟩, fun h => ?_, fun _ _ => rfl⟩, ?_⟩
  · have hb : Phase.busy = .idle := h
    cases hb
  · intro g hg
    have hg : (⟨0, 0, 0, []⟩ : GenProgress) = g := Option.some.inj hg
    subst hg
    refine ⟨4, c, word, searching_validates c, tiles, rfl, by simp, ?_, .inl (Nat.zero_le _)⟩
    intro hm
    rcases h with h | h
    · exact absurd h hm
    · exact h

theorem one_inv : one.Inv := by
  have hm : one.mem = [(0x01000000, 3), (0x01100000, 10), (0x01200000, 5)] := by decide
  refine ⟨by decide, ⟨by decide, ?_⟩, absentOk_reference rfl, rfl, ⟨rfl, fun _ => ⟨rfl, rfl, rfl⟩, fun h => ?_, fun _ _ => rfl⟩, ?_⟩
  · intro x hx
    rw [hm] at hx
    simp only [List.mem_cons, List.not_mem_nil, or_false] at hx
    rcases hx with rfl | rfl | rfl
    · exact ⟨0, 0, by decide, by decide⟩
    · exact ⟨1, 0, by decide, by decide⟩
    · exact ⟨2, 0, by decide, by decide⟩
  · have : one.phase = .busy := rfl
    rw [this] at h; cases h
  · intro g hg
    have : one.gen = none := rfl
    rw [this] at hg; cases hg

/-- DecodeInvertsEncode, EncodeInvertsDecode, DecodeFollowsOpcodeTable. -/
theorem test_witness_encoding :
    (Instr.xor 15 15 15).WellFormed = true ∧ decode 0x000FFF07 = .ok (.xor 15 15 15)
      ∧ (0x000FFF07 : Word) &&& 0xFFF000FF = 0x00000007 ∧ decode 0x00200002 = .error .reservedBits := by decide

/-- StepRunsDecodedCommand: each way the Core's turn comes. -/
theorem test_witness_step :
    let s := { two with lcmd := 0x00020501 }
    (s.phase = .busy ∧ decode s.lcmd = .ok (.mmul 5 0 2)) ∧ s.CoreTurn ∧
      { s with inputs := [.wait], turns := [.core] }.CoreTurn ∧ { s with inputs := [.wait] }.CoreTurn :=
  ⟨by decide, .inl rfl, .inr (.inl ⟨[], rfl⟩), .inr (.inr ⟨rfl, rfl⟩)⟩

/-- IllegalWordCompletes: each way the Core's turn comes. -/
theorem test_witness_illegal :
    let s := { two with lcmd := 0x000000FF }
    (s.phase = .busy ∧ decode s.lcmd = .error .reservedOpcode) ∧ s.CoreTurn ∧
      { s with inputs := [.wait], turns := [.core] }.CoreTurn ∧ { s with inputs := [.wait] }.CoreTurn :=
  ⟨by decide, .inl rfl, .inr (.inl ⟨[], rfl⟩), .inr (.inr ⟨rfl, rfl⟩)⟩

/-- CmdWriteIsAccepted. -/
theorem test_witness_accept :
    let s := { State.reset with inputs := hostIssue 5 }
    s.phase = .idle ∧ s.rst = false ∧ s.inputs = [.write 0x00000010 .word 5] := by decide

/-- CommandsCompleteInOneStep. -/
theorem test_witness_one_step : ∀ d c, Instr.rand 6 ≠ .genkey d c := fun _ _ h => by cases h

/-- ChecksRunInOrder: one state for each clause. -/
theorem test_witness_checks :
    (∃ b ∈ usedBuffers (.rand 16), two.cfg.nbuf ≤ b) ∧
    ((∀ b ∈ usedBuffers (.rand 15), b < two.cfg.nbuf) ∧ ¬ (running 0).BlockLegal ∧ ¬ (running 9).BlockLegal) ∧
    (two.BlockLegal ∧ ∃ b ∈ sourceBuffers (.det 15), two.isValid b = false) ∧
    (two.isValid 0 = true ∧ ¬ { two with ln := 3 }.ValidDims 0) ∧
    (two.Validates (.det 0) ∧ ¬ { two with ltile := 0x00000001 }.TileInRange 0) :=
  ⟨by decide, by decide, by decide, by decide, (detChecks_pass 0).1 (by decide), by decide⟩

/-- ErrorsArePrecise, for a validation error and for NON_INVERTIBLE. -/
theorem test_witness_precise :
    (two.phase = .busy ∧ exec (.rand 16) two = .next (after (exec (.rand 16) two)) ∧
      (after (exec (.rand 16) two)).phase = .idle ∧ (after (exec (.rand 16) two)).err ≠ .none) ∧
    (exec (.invkey 1 0 true) half = .next (after (exec (.invkey 1 0 true) half)) ∧
      (after (exec (.invkey 1 0 true) half)).err = .nonInvertible) :=
  ⟨⟨by decide, exec_after _ _, by decide, by decide⟩, exec_after _ _, by decide⟩

/-- RegistersHaveTheirWriters, NopOnlyCompletes, StorelessCommandsFrame: RESULT changes under DET. -/
theorem test_witness_writers :
    two.staged = none ∧ exec (.det 0) two = .next (after (exec (.det 0) two)) ∧
      (after (exec (.det 0) two)).result ≠ two.result ∧ destination (.det 0) = none :=
  ⟨by decide, exec_after _ _, by decide, rfl⟩

/-- DetReportsDeterminant. -/
theorem test_witness_det : two.staged = none ∧ two.Validates (.det 0) ∧ two.TileInRange 0 :=
  ⟨by decide, (detChecks_pass 0).1 (by decide), by decide⟩

/-- MmulStoresProducts, in place too. -/
theorem test_witness_mmul : two.cfg.Legal ∧ two.Validates (.mmul 5 0 2) ∧ two.Validates (.mmul 2 0 2) :=
  ⟨by decide, (mmulChecks_pass 5 0 2).1 (by decide), (mmulChecks_pass 2 0 2).1 (by decide)⟩

/-- XorStoresBytewise. -/
theorem test_witness_xor : two.cfg.Legal ∧ two.Validates (.xor 15 0 2) :=
  ⟨by decide, (xorChecks_pass 15 0 2).1 (by decide)⟩

/-- InvkeyCopiesFirstInverse. -/
theorem test_witness_invkey :
    half.cfg.Legal ∧ half.Validates (.invkey 1 0 false) ∧ (detMod half.n (half.tile 0 0 0)).toNat % 2 = 1 :=
  ⟨by decide, (invkeyChecks_pass 1 0 false).1 (by decide), by decide⟩

/-- InvkeyInvertsEveryTile, in place, on a key: every tile odd. -/
theorem test_witness_invkey_c :
    let s := buffer 0 4 2 [1, 2, 1, 0, 3, 5, 0, 1] (running 2)
    s.cfg.Legal ∧ s.Validates (.invkey 0 0 true) ∧
      ∀ p, p < s.tileRows 0 → ∀ q, q < s.tileCols 0 → (detMod s.n (s.tile 0 p q)).toNat % 2 = 1 :=
  ⟨by decide, (invkeyChecks_pass 0 0 true).1 (by decide), by decide⟩

/-- InvkeyNamesFirstSingularTile: tile (0,1) with C = 1, and tile (0,0) with C = 0. -/
theorem test_witness_singular :
    (half.Validates (.invkey 1 0 true) ∧ 0 < half.tileRows 0 ∧ 1 < half.tileCols 0 ∧
      (detMod half.n (half.tile 0 0 1)).toNat % 2 = 0 ∧ (detMod half.n (half.tile 0 0 0)).toNat % 2 = 1) ∧
    (let s := buffer 0 2 2 [2, 0, 0, 1] (running 2)
     s.Validates (.invkey 1 0 false) ∧ 0 < s.tileRows 0 ∧ 0 < s.tileCols 0 ∧
      (detMod s.n (s.tile 0 0 0)).toNat % 2 = 0) :=
  ⟨⟨(invkeyChecks_pass 1 0 true).1 (by decide), by decide, by decide, by decide, by decide⟩,
    (invkeyChecks_pass 1 0 false).1 (by decide), by decide, by decide, by decide⟩

/-- GenkeyStartsSearch. -/
theorem test_witness_genkey_start :
    { searching with gen := none }.gen = none ∧ { searching with gen := none }.Validates (.genkey 4 false) :=
  ⟨rfl, (genkeyChecks_pass 4 false).1 (by decide)⟩

/-- GenkeyCommitsSubkeys, with C = 0 and with C = 1. -/
theorem test_witness_genkey_commit :
    (searching.cfg.Legal ∧ searching.Validates (.genkey 4 false) ∧ searching.gen = some ⟨0, 0, 0, []⟩ ∧
      0 + 1 = searching.genCount 4 false ∧
      invertible searching.n (matOfBytes searching.n (searching.drawBytes (searching.n * searching.n))) = true) ∧
    (searching.Validates (.genkey 4 true) ∧ 0 + 1 = searching.genCount 4 true) :=
  ⟨⟨by decide, (genkeyChecks_pass 4 false).1 (by decide), rfl, by decide, by decide⟩,
    (genkeyChecks_pass 4 true).1 (by decide), by decide⟩

/-- GenkeySearchGoesOn: a success that is not the last, a failure without and below a ceiling. -/
theorem test_witness_genkey_on :
    (let s := { buffer 4 4 2 [] (running 2) with gen := some ⟨0, 0, 0, []⟩, entropy := key2 }
     invertible s.n (matOfBytes s.n (s.drawBytes (s.n * s.n))) = true ∧ 0 + 1 ≠ s.genCount 4 true) ∧
    (let s := { searching with lzero := true }
     invertible s.n (matOfBytes s.n (s.drawBytes (s.n * s.n))) = false ∧ s.lmaxatt = 0 ∧
      0 + 1 ≠ (3 : Word).toNat) := by decide

/-- GenkeyExhausts, at the ceiling 1. -/
theorem test_witness_genkey_exhausts :
    let s := { searching with lzero := true, lmaxatt := 1 }
    s.cfg.Legal ∧ s.Validates (.genkey 4 false) ∧ s.gen = some ⟨0, 0, 0, []⟩ ∧ 0 < s.genCount 4 false ∧
      s.lmaxatt ≠ 0 ∧ 0 + 1 = s.lmaxatt.toNat ∧
      invertible s.n (matOfBytes s.n (s.drawBytes (s.n * s.n))) = false :=
  ⟨by decide, (genkeyChecks_pass 4 false).1 (by decide), rfl, by decide, by decide, by decide, by decide⟩

/-- TilekeyRepeatsSubkey. -/
theorem test_witness_tilekey :
    let s := buffer 4 4 2 [] two
    s.cfg.Legal ∧ s.Validates (.tilekey 4 0) :=
  ⟨by decide, (tilekeyChecks_pass 4 0).1 (by decide)⟩

/-- RandStoresDraws: an unwritten destination is enough. -/
theorem test_witness_rand : searching.cfg.Legal ∧ searching.Validates (.rand 4) ∧ searching.isValid 4 = false :=
  ⟨by decide, (randChecks_pass 4).1 (by decide), by decide⟩

/-- DrawsComeInOrder: both clauses. -/
theorem test_witness_draws :
    { two with lzero := true }.lzero = true ∧ two.lzero = false ∧
      { two with entropy := [1, 2, 3] }.entropy = [1, 2] ++ [3] := by decide

/-- GridCommandsFrame, DrawingCommandsFrame: each form goes on, and changes memory. -/
theorem test_witness_frames :
    (exec (.mmul 5 0 2) two = .next (after (exec (.mmul 5 0 2) two)) ∧
      (after (exec (.mmul 5 0 2) two)).mem ≠ two.mem) ∧
    (exec (.genkey 4 false) searching = .next (after (exec (.genkey 4 false) searching)) ∧
      (after (exec (.genkey 4 false) searching)).mem ≠ searching.mem) :=
  ⟨⟨exec_after _ _, by decide⟩, exec_after _ _, by decide⟩

/-- CommandsIgnoreBytesOutsideGrids: a byte beyond the grid of b0 differs. -/
theorem test_witness_outside :
    two.cfg.Legal ∧ two.staged = none ∧ exec (.mmul 5 0 2) two = .next (after (exec (.mmul 5 0 2) two)) ∧
      (∀ b, b < two.cfg.nbuf → ∀ o, o < two.width b * two.height b →
        (two.mem.write (bufAddr 0 4) 99).read (bufAddr b o) = two.mem.read (bufAddr b o)) ∧
      two.mem.write (bufAddr 0 4) 99 ≠ two.mem :=
  ⟨by decide, by decide, exec_after _ _, by decide, by decide⟩

/-- OddBytesHaveOneInverse, InverseIsUniqueAndTwoSided (both clauses), InverseUndoesProduct. -/
theorem test_witness_inverse :
    (3 : Byte).toNat % 2 = 1 ∧ (detMod 2 (matOfBytes 2 key2)).toNat % 2 = 1 ∧
      ∃ y : Mat, MatEq 2 (mulMod 2 (matOfBytes 2 key2) y) identityMat :=
  ⟨by decide, by decide, invMod 2 (matOfBytes 2 key2), matEq_of (by decide)⟩

/-- ProductIsExactSumReduced, DetModIsSignedPermutationSum: the numbers of their clauses. -/
theorem test_witness_arithmetic :
    (255 : Nat) ≤ 255 ∧ (8 : Nat) ≤ 8 ∧
      let m := matOfBytes 2 [3, 5, 7, 11]
      m 0 0 = 3 ∧ m 0 1 = 5 ∧ m 1 0 = 7 ∧ m 1 1 = 11 := by decide

/-- GenkeyTilesAreInvertible, GenkeyTilingAndAttempts, for C = 0. -/
theorem test_witness_genkey_result :
    searching.Inv ∧ searching.phase = .busy ∧ decode searching.lcmd = .ok (.genkey 4 false) ∧
      exec (.genkey 4 false) searching = .next (after (exec (.genkey 4 false) searching)) ∧
      (after (exec (.genkey 4 false) searching)).phase = .idle ∧
      (after (exec (.genkey 4 false) searching)).err = .none :=
  ⟨searching_inv false false 0 (.inl rfl), by decide, by decide, exec_after _ _, by decide, by decide⟩

/-- GenkeyTilesAreInvertible, GenkeyTilingAndAttempts, for C = 1. -/
theorem test_witness_genkey_result_c :
    let s := { searching with lcmd := genkeyWord true }
    s.Inv ∧ s.phase = .busy ∧ decode s.lcmd = .ok (.genkey 4 true) ∧
      exec (.genkey 4 true) s = .next (after (exec (.genkey 4 true) s)) ∧
      (after (exec (.genkey 4 true) s)).phase = .idle ∧ (after (exec (.genkey 4 true) s)).err = .none :=
  ⟨searching_inv true false 0 (.inl rfl), by decide, by decide, exec_after _ _, by decide, by decide⟩

/-- ZeroDrawSearchNeverEnds. -/
theorem test_witness_zero_search :
    let s := { searching with lzero := true, lmaxatt := 0 }
    s.Inv ∧ s.gen = some ⟨0, 0, 0, []⟩ ∧ s.inputs = [] ∧ s.lzero = true ∧ s.lmaxatt = 0 :=
  ⟨searching_inv false true 0 (.inl rfl), rfl, rfl, rfl, rfl⟩

/-- BoundedSearchEnds: a ceiling, and a success for the one sub-key. -/
theorem test_witness_bounded_search :
    (let s := { searching with lzero := true, lmaxatt := 3 }
     s.Inv ∧ decode s.lcmd = .ok (.genkey 4 false) ∧ s.gen = some ⟨0, 0, 0, []⟩ ∧ s.inputs = [] ∧ s.lmaxatt ≠ 0) ∧
    (searching.Inv ∧ searching.lmaxatt = 0 ∧ searching.genCount 4 false ≤ 0 + searching.successesIn 1) :=
  ⟨⟨searching_inv false true 3 (.inr (by decide)), by decide, rfl, rfl, by decide⟩,
    searching_inv false false 0 (.inl rfl), rfl, by decide⟩

/-- InvkeyResultInverts, with C = 0 on a key of one tile. -/
theorem test_witness_inversion :
    two.cfg.Legal ∧ exec (.invkey 1 0 false) two = .next (after (exec (.invkey 1 0 false) two)) ∧
      (after (exec (.invkey 1 0 false) two)).err = .none ∧
      (false = false → ∀ p q, p < two.tileRows 0 → q < two.tileCols 0 →
        MatEq two.n (two.tile 0 p q) (two.tile 0 0 0)) ∧ 0 < two.tileRows 0 ∧ 0 < two.tileCols 0 := by
  refine ⟨by decide, exec_after _ _, by decide, fun _ p q hp hq => ?_, by decide, by decide⟩
  have h1 : two.tileRows 0 = 1 := by decide
  have h2 : two.tileCols 0 = 1 := by decide
  obtain rfl : p = 0 := by omega
  obtain rfl : q = 0 := by omega
  exact fun _ _ _ _ => rfl

/-- InvkeyResultInverts, with C = 1 on a key of two tiles; DecryptionUndoesEncryption, with C = 0 on a key of one. -/
theorem test_witness_inversion_c :
    let s := buffer 0 4 2 [1, 2, 1, 0, 3, 5, 0, 1] (running 2)
    s.cfg.Legal ∧ exec (.invkey 1 0 true) s = .next (after (exec (.invkey 1 0 true) s)) ∧
      (after (exec (.invkey 1 0 true) s)).err = .none ∧ 1 < s.tileCols 0 ∧
      (after (exec (.invkey 6 0 false) one)).err = .none ∧ one.tileRows 0 = 1 ∧ one.tileCols 0 = 1 :=
  ⟨by decide, exec_after _ _, by decide, by decide, by decide, by decide, by decide⟩

/-- MaskTwiceIsIdentity. -/
theorem test_witness_mask :
    let s1 := after (exec (.xor 3 0 2) two)
    let s2 := after (exec (.xor 5 0 3) s1)
    two.cfg.Legal ∧ (∀ o, o < two.width 0 * two.height 0 → (two.mem.read (bufAddr 0 o)).isSome = true) ∧ 3 ≠ 0 ∧
      exec (.xor 3 0 2) two = .next s1 ∧ s1.err = .none ∧ exec (.xor 5 0 3) s1 = .next s2 ∧ s2.err = .none ∧
      0 < two.width 2 * two.height 2 :=
  ⟨by decide, by decide, by decide, exec_after _ _, by decide, exec_after _ _, by decide, by decide⟩

/-- DecryptionUndoesEncryption, on one-byte buffers b0 to b7. -/
theorem test_witness_decryption :
    let s1 := after (exec (.mmul 3 0 1) one)
    let s2 := after (exec (.xor 4 2 3) s1)
    let s3 := after (exec (.xor 5 2 4) s2)
    let s4 := after (exec (.invkey 6 0 true) s3)
    let s5 := after (exec (.mmul 7 6 5) s4)
    one.Inv ∧ [0, 1, 2, 3, 4, 5, 6, 7].Nodup ∧
      (∀ b, b < 3 → ∀ o, o < one.width b * one.height b → (one.mem.read (bufAddr b o)).isSome = true) ∧
      (exec (.mmul 3 0 1) one = .next s1 ∧ s1.err = .none) ∧ (exec (.xor 4 2 3) s1 = .next s2 ∧ s2.err = .none) ∧
      (exec (.xor 5 2 4) s2 = .next s3 ∧ s3.err = .none) ∧
      (exec (.invkey 6 0 true) s3 = .next s4 ∧ s4.err = .none) ∧
      (exec (.mmul 7 6 5) s4 = .next s5 ∧ s5.err = .none) ∧ 0 < one.width 1 * one.height 1 :=
  ⟨one_inv, by decide, by decide, ⟨exec_after _ _, by decide⟩, ⟨exec_after _ _, by decide⟩, ⟨exec_after _ _, by decide⟩,
    ⟨exec_after _ _, by decide⟩, ⟨exec_after _ _, by decide⟩, by decide⟩

/-- BusErrorsChangeNothing: each clause at the edges of its range. -/
theorem test_witness_bus_errors :
    let size : AccessSize := .half
    let c : Config := ⟨8, 4, 19⟩
    ((0x00000FFF : Word).toNat < 0x1000 ∧ size ≠ .word) ∧
    ((0x00000FFE : Word).toNat < 0x1000 ∧ (0x00000FFE : Word).toNat % 4 ≠ 0) ∧
    (0x1000 ≤ (0x00001000 : Word).toNat ∧ (0x00FFFFFF : Word).toNat < 0x01000000) ∧
    0x02000000 ≤ (0x02000000 : Word).toNat ∧
    ((0x01FFFFFF : Word).toNat < 0x02000000 ∧ (0x01FFFFFF : Word).toNat % size.bytes ≠ 0) ∧
    (0 < size.bytes ∧ ¬ (((0x01400000 : Word).toNat + 0) / 0x00100000 % 16 < c.nbuf)) ∧
    (0 < size.bytes ∧ ¬ (((0x01080000 : Word).toNat + 0) % 0x00100000 < c.bufBytes)) := by decide

/-- ReadsHaveNoSideEffect: each way the Host's turn comes, for a read and for a write. -/
theorem test_witness_read :
    (let s := { State.reset with inputs := hostPeek 0 0 .byte }
     s.inputs = [.read 0x01000000 .byte] ∧ s.rst = false ∧ s.HostTurn) ∧
    (let s := { two with inputs := hostSetCtrl 3, turns := [.host] }
     s.inputs = [.write 0x00000008 .word 3] ∧ s.rst = false ∧ s.HostTurn ∧ { s with turns := [], patience := 1 }.HostTurn) :=
  ⟨⟨by decide, rfl, .inl rfl⟩, by decide, rfl, .inr (.inl ⟨[], rfl⟩), .inr (.inr ⟨rfl, by decide⟩)⟩

/-- BufferWritesReadBack: the last half word of b15. -/
theorem test_witness_buffer_write :
    let s := State.reset
    let size : AccessSize := .half
    s.cfg.Legal ∧ s.phase = .idle ∧ 15 < s.cfg.nbuf ∧ 0xFFFFE % size.bytes = 0 ∧
      0xFFFFE + size.bytes ≤ s.cfg.bufBytes := by decide

/-- BusyWritesAreDropped: each clause at the edges of its range. -/
theorem test_witness_dropped :
    two.phase = .busy ∧ (0x0000002C : Word).toNat % 4 = 0 ∧
      (0x40 ≤ (0x00000040 : Word).toNat ∧ (0x0000007C : Word).toNat < 0x80) ∧
      ((0x01FFFFFC : Word).toNat % AccessSize.word.bytes = 0 ∧ ∀ j, j < AccessSize.word.bytes →
        (0x01FFFFFC : Word).toNat / 0x00100000 % 16 < two.cfg.nbuf ∧
          (0x01FFFFFC : Word).toNat % 0x00100000 + j < two.cfg.bufBytes) ∧
      ((0x00000028 : Word).toNat < 0x2C ∧ 0x30 ≤ (0x00000030 : Word).toNat ∧ (0x0000003C : Word).toNat < 0x40 ∧
        0x80 ≤ (0x00000080 : Word).toNat ∧ (0x00000FFC : Word).toNat < 0x1000) := by decide

/-- WaitPollsUntilIdle: both clauses. -/
theorem test_witness_wait :
    ({ State.reset with inputs := [.wait] }.inputs = [.wait] ∧ State.reset.rst = false ∧ State.reset.phase = .idle) ∧
    ({ two with inputs := [.wait], turns := [.host] }.phase = .busy ∧ two.rst = false ∧
      { two with inputs := [.wait], turns := [.host] }.HostTurn) :=
  ⟨by decide, rfl, rfl, .inr (.inl ⟨[], rfl⟩)⟩

/-- HostCannotDisturbCommand: a dropped buffer write, a soft reset and a level of the reset input. -/
theorem test_witness_disturb :
    (let s := { two with inputs := hostLoad 0 0 [7] }
     s.phase = .busy ∧ goesOn (hostStep s) = true ∧ (after (hostStep s)).busywr = true) ∧
    (let s := { two with inputs := hostSetCtrl 4 }
     s.phase = .busy ∧ goesOn (hostStep s) = true ∧ (after (hostStep s)).phase = .idle) ∧
    (let s := { two with inputs := [.rst true] }
     goesOn (hostStep s) = true ∧ (after (hostStep s)).phase = .idle) := by decide

/-- DimWriteClearsValid: the last buffer there is, and the first there is not. -/
theorem test_witness_dim :
    let s := State.powerOn ⟨8, 4, 20⟩
    s.cfg.Legal ∧ s.phase = .idle ∧ 3 < s.cfg.nbuf ∧ s.cfg.nbuf ≤ 4 ∧ 4 < 16 := by decide

/-- ValidIsWriteOneToClear, ConfigurationReadsBack, ConstantRegistersRead (the last DIM register there is). -/
theorem test_witness_idle :
    State.reset.phase = .idle ∧ State.reset.cfg.Legal ∧ (15 : Nat) < State.reset.cfg.nbuf ∧
      (0x00000030 : Word).toNat % 4 = 0 ∧ (0x00000FFC : Word).toNat % 4 = 0 := by decide

/-- CtrlWriteActs, SoftResetKeepsBuffers, InterruptFollowsDone: words with and without SRST, DONE and IE. -/
theorem test_witness_ctrl :
    (3 : Word).getLsbD 2 = false ∧ (4 : Word).getLsbD 2 = true ∧ (2 : Word).getLsbD 1 = true ∧
      (2 : Word).getLsbD 0 = false ∧ (after (exec .nop two)).phase = .idle := by decide

/-- PowerOnResetValues: the input asserted on a busy machine, and released. -/
theorem test_witness_power_on :
    (let s := { two with inputs := [.rst true] }
     s.inputs = [.rst true] ∧ goesOn (hostStep s) = true ∧ s.phase = .busy) ∧
    (let s := { two with rst := true, inputs := [.rst false] }
     s.inputs = [.rst false] ∧ s.rst = true ∧ goesOn (hostStep s) = true ∧ s.valid ≠ 0) := by decide

/-- StepsKeepInvariant: a running GENKEY. -/
theorem test_witness_invariant : searching.Inv ∧ step searching = .next (after (step searching)) :=
  ⟨searching_inv false false 0 (.inl rfl), next_of_goesOn (by decide)⟩

/-- MachineNeverStops: each clause, the second while the Core waits. -/
theorem test_witness_well_driven :
    { two with rst := true, inputs := [.rst false] }.WellDriven ∧
    (two.phase = .busy ∧ two.rst = false ∧ ∀ d c, decode two.lcmd ≠ .ok (.genkey d c)) ∧
    { two with inputs := [.wait], patience := 2 }.mover = some .host :=
  ⟨.inr (.inr ⟨false, [], rfl⟩), ⟨rfl, rfl, fun _ _ h => nomatch h⟩, rfl⟩

end Sys2Proof.Tests
end

/-! The statements of 10_state.md: the registers, the hidden state, the draws, and the invariant. -/

namespace Sys2Proof.Machine

section CommandOutcome

variable {s t : State} {i : Instr}

/-! ### What a command's step can be, said once

A step of a command does some work (it writes RESULT or ATTEMPTS, it draws bytes) and then fails, succeeds,
commits a grid, or goes on searching. -/

/-- The fields a command may change before it completes. -/
structure Work where
  /-- RESULT (10_state.md R40). -/
  result : Word
  /-- ATTEMPTS (10_state.md R41). -/
  attempts : Word
  /-- The bytes the source has left (10_state.md R52). -/
  entropy : List Byte
  /-- How many bytes have been drawn. -/
  draws : Nat

/-- `s` after the work `w`. -/
def State.withWork (s : State) (w : Work) : State :=
  { s with result := w.result, attempts := w.attempts, entropy := w.entropy, draws := w.draws }

/-- Which of the fields command `i` may have changed, and what RESULT is then (10_state.md R40, R41, R52). -/
structure Work.Allowed (w : Work) (i : Instr) (s : State) : Prop where
  result : w.result = s.result ∨
    (((∃ a, i = .det a) ∨ ∃ d a c, i = .invkey d a c) ∧ ∃ d, w.result = resultWord (isOdd d) d)
  attempts : w.attempts = s.attempts ∨ ∃ d c, i = .genkey d c
  draws : (w.entropy = s.entropy ∧ w.draws = s.draws) ∨ (∃ d c, i = .genkey d c) ∨ ∃ d, i = .rand d

/-- No work at all. -/
def State.idleWork (s : State) : Work := ⟨s.result, s.attempts, s.entropy, s.draws⟩

theorem State.idleWork_allowed (i : Instr) (s : State) : s.idleWork.Allowed i s :=
  ⟨.inl rfl, .inl rfl, .inl ⟨rfl, rfl⟩⟩

/-- The descriptor a command commits for its destination (40_command_common.md R167). -/
def storedDim (s : State) : Instr → Word
  | .nop | .det _ => 0
  | .mmul _ _ b => s.dim b
  | .invkey _ a _ | .xor _ a _ => s.dim a
  | .genkey d _ | .tilekey d _ | .rand d => s.dim d

/-- The progress a step of GENKEY goes on with: the start, the next tile, or the same tile once more
(42_key_tiler.md R216). -/
inductive State.SearchGoesTo (s : State) (d : Nat) (c : Bool) : GenProgress → Prop
  | start : s.gen = none → s.Validates (.genkey d c) → SearchGoesTo s d c .start
  | nextTile (g : GenProgress) : s.gen = some g → s.attemptSucceeds = true → g.tile + 1 ≠ s.genCount d c →
      SearchGoesTo s d c ⟨g.tile + 1, 0, saturatingSucc g.total, g.subkeys ++ [s.attemptBytes]⟩
  | sameTile (g : GenProgress) : s.gen = some g → ¬ (s.lmaxatt ≠ 0 ∧ g.attempts + 1 = s.lmaxatt.toNat) →
      SearchGoesTo s d c ⟨g.tile, g.attempts + 1, saturatingSucc g.total, g.subkeys⟩

/-- The ways command `i`, started in `s`, ends its step once its work has led to `u` (40_command_common.md R162,
R163, R167). A GENKEY was validated in an earlier step. -/
inductive CommandEnds (i : Instr) (s u : State) : State → Prop
  | fails (e : ErrCode) (info : Word) : e ≠ .none → CommandEnds i s u (u.raiseErr e info)
  | succeeds : destination i = none → CommandEnds i s u u.succeed
  | commits (d : Nat) (bytes : List Byte) : destination i = some d → bytes.length = storedCount s i →
      (s.Validates i ∨ ∃ d c g, i = .genkey d c ∧ s.gen = some g) → CommandEnds i s u (u.commitGrid d (storedDim s i) bytes)
  | searches (d : Nat) (c : Bool) (g : GenProgress) : i = .genkey d c → s.SearchGoesTo d c g →
      CommandEnds i s u (u.withGen g)

/-- INVKEY stops at a tile whose DetMod is even (45_inverter.md R284). -/
theorem State.firstSingular_even {a : Nat} {c : Bool} {x : Nat × Nat} (h : s.firstSingular a c = some x) :
    isOdd (s.tileDet a x) = false := by
  simpa using List.find?_some h

/-- INVKEY without a singular tile has examined tile (0, 0), which a valid grid has (45_inverter.md R284). -/
theorem State.firstTile_odd {d a : Nat} {c : Bool} (hv : s.Validates (.invkey d a c))
    (h : s.firstSingular a c = none) : isOdd (s.tileDet a (0, 0)) = true := by
  obtain ⟨_, hb, _, hg, _⟩ := hv
  have examined : (0, 0) ∈ s.invkeyTiles a c := by
    cases c
    · exact List.mem_singleton.2 rfl
    · exact mem_blockOrder.2 (State.tiles_pos hb (hg a (List.mem_singleton.2 rfl)))
  simpa using List.find?_eq_none.1 h _ examined

@[simp] theorem State.length_drawBytes (k : Nat) : (s.drawBytes k).length = k := by
  simp [State.drawBytes]

/-- A failed validation does no work and ends the command. -/
theorem ends_of_firstError {k : Checks} {e : ErrCode} (i : Instr) (h : s.firstError k = some e) :
    ∃ w : Work, w.Allowed i s ∧ CommandEnds i s (s.withWork w) (s.raiseErr e 0) :=
  ⟨s.idleWork, s.idleWork_allowed i, .fails e 0 (State.firstError_names h).1⟩

/-- One attempt of GENKEY, as work and ending. -/
theorem genkeyAttempt_ends {d : Nat} {c : Bool} {g : GenProgress} (hg : s.gen = some g) :
    ∃ w : Work, w.Allowed (.genkey d c) s ∧
      CommandEnds (.genkey d c) s (s.withWork w) (s.genkeyAttempt d c g) := by
  have isGenkey : ∃ d' c', Instr.genkey d c = .genkey d' c' := ⟨d, c, rfl⟩
  have allowed : ∀ a : Word, Work.Allowed
      ⟨s.result, a, (s.afterDraws (s.n * s.n)).entropy, (s.afterDraws (s.n * s.n)).draws⟩ (.genkey d c) s :=
    fun _ => ⟨.inl rfl, .inr isGenkey, .inr (.inl isGenkey)⟩
  rcases s.genkeyAttempt_cases d c g with ⟨_, _, h⟩ | ⟨hs, hk, h⟩ | ⟨_, _, h⟩ | ⟨_, hk, h⟩ <;> rw [h]
  · exact ⟨_, allowed (saturatingSucc g.total),
      .commits d _ rfl (length_gridBytes _ _ _ _) (.inr ⟨d, c, g, rfl, hg⟩)⟩
  · exact ⟨_, allowed s.attempts, .searches d c _ rfl (.nextTile g hg hs hk)⟩
  · exact ⟨_, allowed (saturatingSucc g.total), .fails _ _ (by decide)⟩
  · exact ⟨_, allowed s.attempts, .searches d c _ rfl (.sameTile g hg hk)⟩

/-- Every step of a command is some allowed work and one of the four endings. -/
theorem exec_ends (h : exec i s = .next t) : ∃ w : Work, w.Allowed i s ∧ CommandEnds i s (s.withWork w) t := by
  have idle := s.idleWork_allowed i
  cases i with
  | nop =>
    injection h with h; subst h
    exact ⟨s.idleWork, idle, .succeeds rfl⟩
  | mmul d a b =>
    rcases execMmul_cases h with ⟨e, he, rfl⟩ | ⟨hv, rfl⟩
    · exact ends_of_firstError _ he
    · exact ⟨s.idleWork, idle, .commits d _ rfl (length_gridBytes _ _ _ _) (.inl ((mmulChecks_pass d a b).1 hv))⟩
  | det a =>
    rcases execDet_cases h with ⟨e, he, rfl⟩ | ⟨_, _, rfl⟩ | ⟨_, _, rfl⟩
    · exact ends_of_firstError _ he
    · exact ⟨s.idleWork, idle, .fails .badTile 0 (by decide)⟩
    · exact ⟨⟨_, s.attempts, s.entropy, s.draws⟩, ⟨.inr ⟨.inl ⟨a, rfl⟩, _, rfl⟩, .inl rfl, .inl ⟨rfl, rfl⟩⟩,
        .succeeds rfl⟩
  | invkey d a c =>
    have allowed : ∀ x, Work.Allowed ⟨resultWord (isOdd x) x, s.attempts, s.entropy, s.draws⟩ (.invkey d a c) s :=
      fun x => ⟨.inr ⟨.inr ⟨d, a, c, rfl⟩, x, rfl⟩, .inl rfl, .inl ⟨rfl, rfl⟩⟩
    rcases execInvkey_cases h with ⟨e, he, rfl⟩ | ⟨_, x, hx, rfl⟩ | ⟨hv, hx, rfl⟩
    · exact ends_of_firstError _ he
    · rw [← State.firstSingular_even hx]
      exact ⟨_, allowed _, .fails _ _ (by decide)⟩
    · have hv := (invkeyChecks_pass d a c).1 hv
      rw [← State.firstTile_odd hv hx]
      exact ⟨_, allowed _, .commits d _ rfl (length_gridBytes _ _ _ _) (.inl hv)⟩
  | genkey d c =>
    rcases execGenkey_cases h with ⟨_, e, he, rfl⟩ | ⟨hg, hv, rfl⟩ | ⟨g, hg, rfl⟩
    · exact ends_of_firstError _ he
    · exact ⟨s.idleWork, idle, .searches d c _ rfl (.start hg ((genkeyChecks_pass d c).1 hv))⟩
    · exact genkeyAttempt_ends hg
  | tilekey d a =>
    rcases execTilekey_cases h with ⟨e, he, rfl⟩ | ⟨hv, rfl⟩
    · exact ends_of_firstError _ he
    · exact ⟨s.idleWork, idle, .commits d _ rfl (length_gridBytes _ _ _ _) (.inl ((tilekeyChecks_pass d a).1 hv))⟩
  | rand d =>
    rcases execRand_cases h with ⟨e, he, rfl⟩ | ⟨hv, rfl⟩
    · exact ends_of_firstError _ he
    · exact ⟨⟨s.result, s.attempts, _, _⟩, ⟨.inl rfl, .inl rfl, .inr (.inr ⟨d, rfl⟩)⟩,
        .commits d _ rfl (State.length_drawBytes _) (.inl ((randChecks_pass d).1 hv))⟩
  | xor d a b =>
    rcases execXor_cases h with ⟨e, he, rfl⟩ | ⟨hv, rfl⟩
    · exact ends_of_firstError _ he
    · exact ⟨s.idleWork, idle, .commits d _ rfl (length_gridBytes _ _ _ _) (.inl ((xorChecks_pass d a b).1 hv))⟩

/-- A completion that commits nothing keeps the buffer file. -/
theorem State.complete_buffers (hs : s.staged = none) (e : ErrCode) (info : Word) :
    (s.complete e info).mem = s.mem ∧ (s.complete e info).dims = s.dims ∧ (s.complete e info).valid = s.valid := by
  simp [State.committedMem, State.committedDims, State.committedValid, hs]

end CommandOutcome

section Invariant

variable {s t : State}

/-! ### What keeps the invariant: the parts of it -/

/-- Bytes written inside an existing buffer keep the buffer file in order (20_memory.md R81). -/
theorem State.MemoryOk.of_writeBytes (h : s.MemoryOk) {b o : Nat} {bytes : List Byte} (hc : t.cfg = s.cfg)
    (hm : t.mem = s.mem.writeBytes (bufAddr b o) bytes) (hb : b < s.cfg.nbuf)
    (ho : o + bytes.length ≤ s.cfg.bufBytes) : t.MemoryOk := by
  unfold State.MemoryOk
  rw [hc, hm]
  refine ⟨Memory.wf_writeBytes _ _ h.1, fun x hx => ?_⟩
  rcases Memory.mem_writeBytes hx with ⟨hlow, hhigh⟩ | hx
  · refine ⟨b, o + (x.1 - bufAddr b o), ⟨hb, by omega⟩, ?_⟩
    rw [bufAddr_add]; omega
  · exact h.2 x hx

/-- A descriptor written leaves the descriptors of absent buffers 0 (10_state.md R44). -/
theorem State.AbsentOk.dimsWith (h : s.AbsentOk) (d : Nat) (w : Word) {b : Nat} (hb : s.cfg.nbuf ≤ b) :
    (s.dimsWith d w)[b]?.getD 0 = 0 := by
  unfold State.dimsWith
  split
  · rw [Vector.getElem?_setIfInBounds_ne (by omega)]; exact (h b hb).1
  · exact (h b hb).1

/-- A VALID bit set leaves the bits of absent buffers 0 (10_state.md R43). -/
theorem State.AbsentOk.validWith (h : s.AbsentOk) (d : Nat) {b : Nat} (hb : s.cfg.nbuf ≤ b) :
    (s.validWith d).getLsbD b = false := by
  unfold State.validWith
  split
  · rw [BitVec.getLsbD_or, (h b hb).2, validBit_get]
    simp [show b ≠ d by omega]
  · exact (h b hb).2

/-- A RESULT word whose INV is the parity of its DET (41_invertibility.md R194). -/
theorem resultWord_isOdd (d : Byte) :
    (resultWord (isOdd d) d).toNat
      = (resultWord (isOdd d) d).toNat % 256 + 256 * ((resultWord (isOdd d) d).toNat % 2) := by
  have := d.isLt
  rw [toNat_resultWord, isOdd_toNat]
  rcases Nat.mod_two_eq_zero_or_one d.toNat with h | h <;> rw [h] <;> omega

/-! ### The Core keeps the invariant -/

theorem State.Inv.beginStep (h : s.Inv) : s.beginStep.Inv :=
  ⟨h.config, h.memory, h.absent, h.result, h.lifecycle, h.progress⟩

theorem State.Inv.withWork (h : s.Inv) {i : Instr} {w : Work} (hw : w.Allowed i s) : (s.withWork w).Inv := by
  refine ⟨h.config, h.memory, h.absent, ?_, h.lifecycle, h.progress⟩
  show w.result.toNat = w.result.toNat % 256 + 256 * (w.result.toNat % 2)
  rcases hw.result with hr | ⟨_, d, hr⟩ <;> rw [hr]
  · exact h.result
  · exact resultWord_isOdd d

/-- A completion that commits nothing keeps the invariant: ERRINFO is 0 unless the code names a tile
(60_exceptions.md R331). -/
theorem State.Inv.complete (h : s.Inv) (e : ErrCode) (info : Word) : (s.complete e info).Inv := by
  obtain ⟨hm, hd, hv⟩ := State.complete_buffers h.lifecycle.1 e info
  refine ⟨h.config, ?_, ?_, h.result, ⟨rfl, nofun, fun _ => rfl, fun _ hn => ?_⟩, nofun⟩
  · unfold State.MemoryOk; rw [hm]; exact h.memory
  · unfold State.AbsentOk; rw [hd, hv]; exact h.absent
  · have hn : e.namesTile = false := hn
    simp [hn]

/-- Committing a grid that fits its existing destination keeps the invariant. -/
theorem State.Inv.commitGrid (h : s.Inv) {d : Nat} (dim : Word) {bytes : List Byte} (hd : d < s.cfg.nbuf)
    (hlen : bytes.length ≤ s.cfg.bufBytes) : (s.commitGrid d dim bytes).Inv := by
  rw [State.commitGrid_eq]
  exact ⟨h.config, h.memory.of_writeBytes (o := 0) rfl rfl hd (by omega),
    fun b hb => ⟨h.absent.dimsWith d dim hb, h.absent.validWith d hb⟩, h.result,
    ⟨rfl, nofun, fun _ => rfl, fun _ _ => rfl⟩, nofun⟩

/-- A validated command's grids lie in their buffers (60_exceptions.md R325). -/
theorem State.Validates.grid_le {i : Instr} {b : Nat} (h : s.Validates i) (hb : b ∈ gridBuffers i) :
    s.width b * s.height b ≤ s.cfg.bufBytes := by
  obtain ⟨_, _, _, grids, _⟩ := h
  obtain ⟨_, _, hle, _⟩ := grids b hb
  exact hle

/-- A validated command's destination exists and its grid fits (60_exceptions.md R321, R325). -/
theorem State.Validates.fits {i : Instr} {d : Nat} (h : s.Validates i) (hd : destination i = some d) :
    d < s.cfg.nbuf ∧ storedCount s i ≤ s.cfg.bufBytes := by
  have used := h.1
  cases i with
  | nop | det => simp [destination] at hd
  | mmul d' a b =>
    injection hd with hd; subst hd
    exact ⟨used d' (by simp [usedBuffers]), h.grid_le (b := b) (by simp [gridBuffers])⟩
  | invkey d' a | xor d' a =>
    injection hd with hd; subst hd
    exact ⟨used d' (by simp [usedBuffers]), h.grid_le (b := a) (by simp [gridBuffers])⟩
  | genkey d' | tilekey d' | rand d' =>
    injection hd with hd; subst hd
    exact ⟨used d' (by simp [usedBuffers]), h.grid_le (b := d') (by simp [gridBuffers])⟩

/-- A validated GENKEY has a sub-key to generate (42_key_tiler.md R216). -/
theorem State.Validates.genCount_pos {d : Nat} {c : Bool} (h : s.Validates (.genkey d c)) : 0 < s.genCount d c := by
  obtain ⟨_, hb, _, hg, _⟩ := h
  obtain ⟨hr, hc⟩ := State.tiles_pos hb (hg d (List.mem_singleton.2 rfl))
  unfold State.genCount
  split
  · exact Nat.mul_pos hr hc
  · exact Nat.one_pos

/-- A running GENKEY passed validation: its progress says so. -/
theorem State.Inv.genkey_validates (h : s.Inv) {d : Nat} {c : Bool} (hd : decode s.lcmd = .ok (.genkey d c))
    {g : GenProgress} (hg : s.gen = some g) : s.Validates (.genkey d c) := by
  obtain ⟨d', c', hd', hv, _⟩ := h.progress g hg
  obtain ⟨rfl, rfl⟩ := Instr.genkey.inj (Except.ok.inj (hd'.symm.trans hd))
  exact hv

/-- The running total stays an upper bound when an attempt is counted (42_key_tiler.md R218). -/
theorem saturatingSucc_bound {x : Nat} {total : Word} (h : x ≤ total.toNat ∨ total = 0xFFFFFFFF) :
    x + 1 ≤ (saturatingSucc total).toNat ∨ saturatingSucc total = 0xFFFFFFFF := by
  rcases saturatingSucc_cases total with ⟨hs, hne⟩ | ⟨hs, _⟩
  · left; have := h.resolve_right hne; omega
  · exact .inr hs

/-- A step of the search leads to progress its own steps can have reached (42_key_tiler.md R210, R211, R216). -/
theorem State.Inv.searchGoesTo (h : s.Inv) {d : Nat} {c : Bool} (hd : decode s.lcmd = .ok (.genkey d c))
    {g : GenProgress} (hg : s.SearchGoesTo d c g) : s.ProgressOk g := by
  cases hg with
  | start _ hv =>
    refine ⟨d, c, hd, hv, hv.genCount_pos, rfl, by simp [GenProgress.start], fun hm => ?_, .inl (Nat.zero_le _)⟩
    exact Nat.pos_of_ne_zero fun h0 => hm (BitVec.eq_of_toNat_eq h0)
  | nextTile g hg hs hk =>
    obtain ⟨d', c', hd', hv, hlt, hlen, hkeys, hmax, htot⟩ := h.progress g hg
    obtain ⟨rfl, rfl⟩ := Instr.genkey.inj (Except.ok.inj (hd'.symm.trans hd))
    refine ⟨d', c', hd, hv, Nat.lt_of_le_of_ne hlt hk, by simp [hlen], ?_, fun hm => ?_, ?_⟩
    · intro k hk
      rcases List.mem_append.1 hk with hk | hk
      · exact hkeys k hk
      · rw [List.mem_singleton.1 hk]
        exact ⟨State.length_drawBytes _, hs⟩
    · exact Nat.lt_of_le_of_lt (Nat.zero_le _) (hmax hm)
    · exact saturatingSucc_bound (htot.imp_left (le_trans (Nat.le_add_right _ _)))
  | sameTile g hg hk =>
    obtain ⟨d', c', hd', hv, hlt, hlen, hkeys, hmax, htot⟩ := h.progress g hg
    exact ⟨d', c', hd', hv, hlt, hlen, hkeys,
      fun hm => Nat.lt_of_le_of_ne (hmax hm) fun he => hk ⟨hm, he⟩, saturatingSucc_bound htot⟩

/-- A command that goes on while PHASE = BUSY keeps the invariant, if its new progress is in order. -/
theorem State.Inv.withGen (h : s.Inv) (hb : s.phase = .busy) {g : GenProgress} (hg : s.ProgressOk g) :
    (s.withGen g).Inv := by
  obtain ⟨hstaged, hbusy, _, hinfo⟩ := h.lifecycle
  have notIdle : s.phase ≠ .idle := by rw [hb]; decide
  refine ⟨h.config, h.memory, h.absent, h.result, ⟨hstaged, hbusy, fun hi => absurd hi notIdle, hinfo⟩,
    fun g' hg' => ?_⟩
  obtain rfl := Option.some.inj hg'
  exact hg

/-- The latched command's step keeps the invariant. -/
theorem State.Inv.exec (h : s.Inv) (hb : s.phase = .busy) {i : Instr} (hd : decode s.lcmd = .ok i)
    (he : exec i s = .next t) : t.Inv := by
  obtain ⟨w, hw, hends⟩ := exec_ends he
  have hu := h.withWork hw
  cases hends with
  | fails e info _ => exact hu.complete e info
  | succeeds _ => exact hu.complete .none 0
  | commits d bytes hdest hlen hvalid =>
    have hv : s.Validates i := by
      rcases hvalid with hv | ⟨d', c, g, rfl, hg⟩
      · exact hv
      · exact h.genkey_validates hd hg
    obtain ⟨hlt, hle⟩ := hv.fits hdest
    exact hu.commitGrid _ hlt (hlen ▸ hle)
  | searches d c g hi hg =>
    subst hi
    exact hu.withGen hb (h.searchGoesTo hd hg)

/-! ### The Host keeps the invariant -/

theorem State.Inv.noteDropped (h : s.Inv) : s.noteDropped.Inv :=
  ⟨h.config, h.memory, h.absent, h.result, h.lifecycle, h.progress⟩

theorem State.Inv.respond (h : s.Inv) (r : Response) : (s.respond r).Inv :=
  ⟨h.config, h.memory, h.absent, h.result, h.lifecycle, h.progress⟩

theorem State.Inv.withInputs (h : s.Inv) (rest : List HostOp) : (s.withInputs rest).Inv :=
  ⟨h.config, h.memory, h.absent, h.result, h.lifecycle, h.progress⟩

/-- A write that may be dropped has to keep the invariant while IDLE only (10_state.md R49). -/
theorem State.Inv.unlessBusy (h : s.Inv) {effect : State} (he : s.phase = .idle → effect.Inv) :
    (s.unlessBusy effect).Inv := by
  rcases State.unlessBusy_cases (s := s) effect with ⟨_, hu⟩ | ⟨hi, hu⟩ <;> rw [hu]
  · exact h.noteDropped
  · exact he hi

/-- No search runs while IDLE. -/
theorem State.Inv.noSearch (h : s.Inv) (hi : s.phase = .idle) {P : GenProgress → Prop} :
    ∀ g, s.gen = some g → P g := by
  obtain ⟨_, _, hgen, _⟩ := h.lifecycle
  simp [hgen hi]

theorem State.Inv.accept (h : s.Inv) (hr : s.rst = false) (hi : s.phase = .idle) (v : Word) : (s.accept v).Inv :=
  ⟨h.config, h.memory, h.absent, h.result, ⟨h.lifecycle.1, fun _ => ⟨rfl, rfl, hr⟩, nofun, nofun⟩, h.noSearch hi⟩

theorem State.Inv.softReset (h : s.Inv) : s.softReset.Inv :=
  ⟨h.config, h.memory, h.absent, rfl, ⟨rfl, nofun, fun _ => rfl, fun _ _ => rfl⟩, nofun⟩

theorem State.Inv.writeCtrl (h : s.Inv) (v : Word) : (s.writeCtrl v).Inv := by
  unfold State.writeCtrl
  split
  · exact h.softReset
  · exact ⟨h.config, h.memory, h.absent, h.result, h.lifecycle, h.progress⟩

theorem State.Inv.acknowledge (h : s.Inv) (v : Word) : (s.acknowledge v).Inv := by
  obtain ⟨hs, hbusy, hidle, hinfo⟩ := h.lifecycle
  refine ⟨h.config, h.memory, h.absent, h.result, ⟨hs, fun hb => ?_, hidle, hinfo⟩, h.progress⟩
  obtain ⟨hd, he, hr⟩ := hbusy hb
  exact ⟨by simp [hd], he, hr⟩

theorem State.Inv.discard (h : s.Inv) (hi : s.phase = .idle) (v : Word) : (s.discard v).Inv :=
  ⟨h.config, h.memory, fun b hb => ⟨(h.absent b hb).1, by simp [(h.absent b hb).2]⟩, h.result, h.lifecycle,
    h.noSearch hi⟩

theorem State.Inv.writeDim (h : s.Inv) (hi : s.phase = .idle) (b : Nat) (v : Word) : (s.writeDim b v).Inv := by
  refine ⟨h.config, h.memory, fun x hx => ⟨h.absent.dimsWith b v hx, ?_⟩, h.result, h.lifecycle, h.noSearch hi⟩
  have := (h.absent x hx).2
  rw [State.writeDim_valid]
  split <;> simp [this]

theorem State.Inv.loadBytes (h : s.Inv) (hi : s.phase = .idle) {b o : Nat} {bytes : List Byte} (hb : b < s.cfg.nbuf)
    (ho : o + bytes.length ≤ s.cfg.bufBytes) : (s.loadBytes b o bytes).Inv :=
  ⟨h.config, h.memory.of_writeBytes rfl rfl hb ho,
    fun x hx => ⟨(h.absent x hx).1, h.absent.validWith b hx⟩, h.result, h.lifecycle, h.noSearch hi⟩

theorem State.Inv.writeReg (h : s.Inv) (hr : s.rst = false) (v : Word) (r : Reg) : (s.writeReg v r).Inv := by
  cases r with
  | id | param | result | attempts | errinfo | unmapped => exact h
  | ctrl => exact h.writeCtrl v
  | status => exact h.acknowledge v
  | cmd => exact h.unlessBusy fun hi => h.accept hr hi v
  | block | maxatt | tile =>
    exact h.unlessBusy fun _ => ⟨h.config, h.memory, h.absent, h.result, h.lifecycle, h.progress⟩
  | valid => exact h.unlessBusy fun hi => h.discard hi v
  | dim b => exact h.unlessBusy fun hi => h.writeDim hi b v

theorem State.Inv.memWrite (h : s.Inv) (hr : s.rst = false) (addr : Word) (size : AccessSize) (v : Word) :
    (s.memWrite addr size v).Inv := by
  unfold State.memWrite
  split
  · exact h.writeReg hr v _
  · rename_i b o hx
    obtain ⟨⟨hb, _⟩, ⟨_, ho⟩, _⟩ := targetOf_buffer hx
    have := size.bytes_pos
    exact h.unlessBusy fun hi => h.loadBytes hi hb (by rw [length_writtenBytes]; omega)
  · exact h

/-- Power-on leaves every descriptor 0 (10_state.md R55). -/
theorem powerOn_dims (b : Nat) : (Vector.replicate 16 (0 : Word))[b]?.getD 0 = 0 := by
  rw [Vector.getElem?_replicate]
  split <;> rfl

/-- The power-on state of a legal configuration has the invariant, whatever the outside supplies
(10_state.md R55). -/
theorem State.powerOn_inv {c : Config} (h : c.Legal) : (State.powerOn c).Inv :=
  ⟨h, ⟨.nil, nofun⟩, fun b _ => ⟨powerOn_dims b, BitVec.getLsbD_zero⟩, rfl,
    ⟨rfl, nofun, fun _ => rfl, fun _ _ => rfl⟩, nofun⟩

theorem State.Inv.driveReset (h : s.Inv) (level : Bool) : (s.driveReset level).Inv := by
  unfold State.driveReset
  split
  · have hp := State.powerOn_inv h.config
    exact ⟨hp.config, hp.memory, hp.absent, hp.result, ⟨rfl, nofun, fun _ => rfl, fun _ _ => rfl⟩, nofun⟩
  · exact h

theorem State.Inv.hostStep (h : s.Inv) (hs : hostStep s = .next t) : t.Inv := by
  rcases hostStep_cases hs with ⟨_, rfl⟩ | ⟨op, rest, _, rfl, hr⟩
  · exact h
  cases op with
  | read addr size => exact (h.withInputs rest).respond _
  | write addr size v =>
    have hr : s.rst = false := hr.resolve_right (fun ⟨_, hop⟩ => nomatch hop)
    exact ((h.memWrite hr addr size v).withInputs rest).respond _
  | wait =>
    refine State.Inv.respond ?_ _
    split
    · exact h
    · exact h.withInputs rest
  | rst level => exact (h.withInputs rest).driveReset level

/-- Settles O59: a step is nothing, a step of the Host, or a step of the Core, and each keeps the invariant. -/
theorem stepsKeepInvariant : Obligations.StepsKeepInvariant := by
  intro s t h hs
  rcases step_cases hs with ⟨_, _, rfl⟩ | ⟨_, hhost⟩ | ⟨hb, ⟨i, hd, he⟩ | ⟨e, _, rfl⟩⟩
  · exact h
  · exact h.beginStep.hostStep hhost
  · exact h.beginStep.exec hb hd he
  · exact h.beginStep.complete .illegalCmd 0

/-- Settles O58: every part of the invariant is a fact of the power-on values. -/
theorem powerOnMeetsInvariant : Obligations.PowerOnMeetsInvariant :=
  ⟨fun _ => State.powerOn_inv, State.powerOn_inv (by decide)⟩

end Invariant

section Frames

variable {s u t : State} {i : Instr}

/-! ### What each ending leaves unchanged -/

/-- A command's step changes only the buffer file, its work and the lifecycle fields (40_command_common.md R162,
R167). -/
theorem CommandEnds.frame {w : Work} (h : CommandEnds i s (s.withWork w) t) :
    t = { s with
      mem := t.mem, dims := t.dims, valid := t.valid, result := w.result, attempts := w.attempts,
      entropy := w.entropy, draws := w.draws, errinfo := t.errinfo, err := t.err, errs := t.errs, phase := t.phase,
      done := t.done, gen := t.gen, staged := t.staged } := by
  cases h with
  | fails | succeeds | searches => rfl
  | commits d bytes => rw [State.commitGrid_eq]; rfl

/-- A command with a destination changes the destination's descriptor and VALID bit, and the bytes it stores, at
most (40_command_common.md R172). -/
theorem CommandEnds.buffers {w : Work} {d : Nat} (h : CommandEnds i s (s.withWork w) t) (hd : destination i = some d) :
    (∀ b, b ≠ d → t.dim b = s.dim b ∧ t.isValid b = s.isValid b) ∧
    (∀ x, (∀ o, o < storedCount s i → x ≠ bufAddr d o) → t.mem.read x = s.mem.read x) := by
  cases h with
  | fails e info he =>
    obtain ⟨hm, hdims, hv⟩ := State.raiseErr_buffers (s := s.withWork w) info he
    refine ⟨fun b _ => ⟨?_, ?_⟩, fun x _ => by rw [hm]; rfl⟩
    · unfold State.dim; rw [hdims]; rfl
    · unfold State.isValid; rw [hv]; rfl
  | succeeds hnone => rw [hnone] at hd; cases hd
  | commits d' bytes hdest hlen =>
    obtain rfl := Option.some.inj (hdest.symm.trans hd)
    exact ⟨fun b hb => State.commitGrid_other _ _ hb, fun x hx => State.commitGrid_outside _ _ _ (hlen ▸ hx)⟩
  | searches => exact ⟨fun b _ => ⟨rfl, rfl⟩, fun x _ => rfl⟩

/-- A command without a destination keeps the buffer file (40_command_common.md R172). -/
theorem CommandEnds.storeless {w : Work} (h : CommandEnds i s (s.withWork w) t) (hs : s.staged = none)
    (hd : destination i = none) : t.mem = s.mem ∧ t.dims = s.dims ∧ t.valid = s.valid := by
  cases h with
  | fails e info => exact State.complete_buffers (s := s.withWork w) hs e info
  | succeeds => exact State.complete_buffers (s := s.withWork w) hs .none 0
  | commits d bytes hdest => rw [hd] at hdest; cases hdest
  | searches => exact ⟨rfl, rfl, rfl⟩

/-- A descriptor committed for the buffer that has it already changes no descriptor (44_mask.md R261,
42_key_tiler.md R216). -/
theorem State.commitGrid_same_dim (d b : Nat) (bytes : List Byte) :
    (s.commitGrid d (s.dim d) bytes).dim b = s.dim b := by
  by_cases hb : b = d
  · subst hb
    rw [State.commitGrid_eq]
    show (if b < s.cfg.nbuf then (s.dimsWith b (s.dim b))[b]?.getD 0 else 0) = s.dim b
    unfold State.dimsWith State.dim
    split
    · rw [Vector.getElem?_setIfInBounds_self]
      split
      · rfl
      · rename_i h16
        rw [Vector.getElem?_eq_none (by omega)]
    · rfl
  · exact (State.commitGrid_other _ _ hb).1

/-! ### The frames of the commands -/

/-- Settles O11: the work a command may do, and its endings, name the writers. -/
theorem registersHaveTheirWriters : Obligations.RegistersHaveTheirWriters := by
  intro i s t hs he
  obtain ⟨w, hw, hends⟩ := exec_ends he
  have frame := hends.frame
  have hres : t.result = w.result := congrArg State.result frame
  have hatt : t.attempts = w.attempts := congrArg State.attempts frame
  refine ⟨fun hne => ?_, fun hne => ?_, hends.storeless hs⟩
  · exact (hw.result.resolve_left (hres ▸ hne)).1
  · exact hw.attempts.resolve_left (hatt ▸ hne)

/-- Settles O26: a grid command draws nothing, and its endings touch its destination only. -/
theorem gridCommandsFrame : Obligations.GridCommandsFrame := by
  intro i d s t hi he
  obtain ⟨w, hw, hends⟩ := exec_ends he
  have frame := hends.frame
  have dest : destination i = some d := by
    rcases hi with ⟨a, b, rfl⟩ | ⟨a, b, rfl⟩ | ⟨a, rfl⟩ | ⟨a, c, rfl⟩ <;> rfl
  have noDraw : ¬ ((∃ d' c, i = .genkey d' c) ∨ ∃ d', i = .rand d') := by
    rcases hi with ⟨a, b, rfl⟩ | ⟨a, b, rfl⟩ | ⟨a, rfl⟩ | ⟨a, c, rfl⟩ <;> simp
  have hatt : w.attempts = s.attempts := hw.attempts.resolve_right fun h => noDraw (.inl h)
  obtain ⟨hent, hdraws⟩ := hw.draws.resolve_right noDraw
  have hres : t.result = w.result := congrArg State.result frame
  refine ⟨?_, fun hne => ?_, hends.buffers dest⟩
  · rw [hatt, hent, hdraws, ← hres] at frame
    exact frame
  · rw [hres]
    refine hw.result.resolve_right ?_
    rintro ⟨⟨a, rfl⟩ | ⟨d', a, c, rfl⟩, _⟩
    · cases dest
    · obtain rfl := Option.some.inj dest
      exact hne a c rfl

/-- Settles O27: a drawing command commits the descriptor its destination has already. -/
theorem drawingCommandsFrame : Obligations.DrawingCommandsFrame := by
  intro i d s t hi he
  obtain ⟨w, hw, hends⟩ := exec_ends he
  have frame := hends.frame
  have dest : destination i = some d := by rcases hi with ⟨c, rfl⟩ | rfl <;> rfl
  have keepsDim : storedDim s i = s.dim d := by rcases hi with ⟨c, rfl⟩ | rfl <;> rfl
  have hres : w.result = s.result := by
    refine hw.result.resolve_right ?_
    rintro ⟨⟨a, rfl⟩ | ⟨d', a, c, rfl⟩, _⟩ <;> simp at hi
  have hatt : t.attempts = w.attempts := congrArg State.attempts frame
  have hent : t.entropy = w.entropy := congrArg State.entropy frame
  have hdraws : t.draws = w.draws := congrArg State.draws frame
  obtain ⟨others, outside⟩ := hends.buffers dest
  refine ⟨?_, ?_, fun b => ?_, fun b hb => (others b hb).2, outside⟩
  · rw [hres, ← hatt, ← hent, ← hdraws] at frame
    exact frame
  · rintro rfl
    exact hatt.trans (hw.attempts.resolve_right (by simp))
  · cases hends with
    | fails e info hne =>
      unfold State.dim
      rw [(State.raiseErr_buffers (s := s.withWork w) info hne).2.1]
      rfl
    | succeeds hnone => rw [hnone] at dest; cases dest
    | commits d' bytes hdest =>
      obtain rfl := Option.some.inj (hdest.symm.trans dest)
      rw [keepsDim]
      exact State.commitGrid_same_dim (s := s.withWork w) d' b bytes
    | searches => rfl

/-- A step that ends a running command sets DONE and keeps IE (40_command_common.md R162). -/
theorem CommandEnds.irq_of_idle (h : CommandEnds i s u t) (hb : u.phase = .busy) (hi : t.phase = .idle) :
    t.irq = u.ie := by
  cases h with
  | fails | succeeds | commits => exact Bool.and_true _
  | searches =>
    have hi : u.phase = .idle := hi
    rw [hb] at hi
    cases hi

/-- A CTRL write without SRST sets IE and RNGZERO (10_state.md R35). -/
theorem State.writeCtrl_of_noReset {v : Word} (h : v.getLsbD 2 = false) :
    s.writeCtrl v = { s with ie := v.getLsbD 0, rngzero := v.getLsbD 1 } := by
  unfold State.writeCtrl
  rw [h]
  rfl

/-- Settles O57: every ending but a search that goes on sets DONE. -/
theorem interruptFollowsDone : Obligations.InterruptFollowsDone := by
  refine ⟨fun s => Bool.and_eq_true_iff, fun s v => Bool.and_false _, fun i s t hb he hi => ?_, fun s v hv => ?_,
    fun s v h0 h2 => ?_⟩
  · obtain ⟨w, _, hends⟩ := exec_ends he
    exact hends.irq_of_idle hb hi
  · simp [State.irq, hv]
  · rw [State.writeCtrl_of_noReset h2]
    show (v.getLsbD 0 && s.done) = false
    rw [h0, Bool.false_and]

end Frames

section Draws

/-! ### The draws -/

/-- Settles O25: the k draws are the first k supplied bytes, entry by entry. -/
theorem drawsComeInOrder : Obligations.DrawsComeInOrder := by
  intro s k
  refine ⟨fun hz => ⟨?_, ?_⟩, fun bytes rest hz he hk => ⟨?_, ?_⟩⟩
  · have zero : s.nextDraw = fun _ => 0 := by funext j; simp [State.nextDraw, hz]
    simp [State.drawBytes, zero]
  · unfold State.afterDraws
    rw [if_pos hz, if_pos hz]
  · subst hk
    refine List.ext_getElem (State.length_drawBytes _) fun j _ hj => ?_
    simp [State.drawBytes, State.nextDraw, hz, he, List.getElem?_append_left hj, hj]
  · subst hk
    simp [hz, he]

end Draws

section MatrixCongruence

variable {n : Nat} {x x' y y' : Mat}

/-! ### The matrix operations depend on the leading entries only -/

theorem mulMod_congr (hx : MatEq n x x') (hy : MatEq n y y') : MatEq n (mulMod n x y) (mulMod n x' y') := by
  intro i j hi hj
  apply BitVec.eq_of_toNat_eq
  rw [toNat_mulMod, toNat_mulMod]
  congr 1
  refine Finset.sum_congr rfl fun k hk => ?_
  have hk : k < n := Finset.mem_range.1 hk
  rw [hx i k hi hk, hy k j hk hj]

theorem xorTile_congr (hx : MatEq n x x') (hy : MatEq n y y') : MatEq n (xorTile x y) (xorTile x' y') := by
  intro i j hi hj
  unfold xorTile
  rw [hx i j hi hj, hy i j hi hj]

/-- Deleting row `r` and column `c` of a matrix with n rows and columns reads leading entries only. -/
theorem detZ_minor_congr (h : MatEq n x x') (r c : Nat) :
    detZ (n - 1) (minorZ x.toZ r c) = detZ (n - 1) (minorZ x'.toZ r c) := by
  have below : ∀ k < n - 1, ∀ p : Nat, (if k < p then k else k + 1) < n := by intro k hk p; split <;> omega
  rw [detZ_eq_det, detZ_eq_det]
  congr 1
  ext a b
  show ((x _ _).toNat : Int) = ((x' _ _).toNat : Int)
  rw [h _ _ (below a a.isLt r) (below b b.isLt c)]

theorem invMod_congr (h : MatEq n x x') : MatEq n (invMod n x) (invMod n x') := by
  intro i j _ _
  unfold invMod adjugate
  rw [detMod_congr h, detZ_minor_congr h]

/-- The bytes of a grid are entries of its tiles (40_command_common.md R164, R166). -/
theorem gridBytes_congr {w h : Nat} {f g : Nat → Nat → Mat} (hw : w % n = 0) (hh : h % n = 0)
    (hfg : ∀ p q, p < h / n → q < w / n → MatEq n (f p q) (g p q)) : gridBytes n w h f = gridBytes n w h g := by
  refine List.map_congr_left fun o ho => ?_
  have ho : o < w * h := List.mem_range.1 ho
  have row : o / w < h := Nat.div_lt_of_lt_mul ho
  have col : o % w < w := Nat.mod_lt _ (Nat.pos_of_ne_zero fun h0 => by simp [h0] at ho)
  have quotient : ∀ {k m : Nat}, k < m → m % n = 0 → k / n < m / n := fun hk hm =>
    Nat.div_lt_div_of_lt_of_dvd (Nat.dvd_of_mod_eq_zero hm) hk
  have pos : 0 < n := Nat.pos_of_ne_zero fun h0 => by simp [h0] at hw; simp [hw] at ho
  exact hfg _ _ (quotient row hh) (quotient col hw) _ _ (Nat.mod_lt _ pos) (Nat.mod_lt _ pos)

end MatrixCongruence

section OutsideGrids

variable {s t : State} {m : Memory}

/-! ### Commands do not see bytes outside the grids -/

/-- `s` with another buffer file. -/
def State.withMem (s : State) (m : Memory) : State := { s with mem := m }

/-- The memory `m` has the same bytes in every grid of `s`. -/
def State.GridsAgree (s : State) (m : Memory) : Prop :=
  ∀ b o, b < s.cfg.nbuf → o < s.width b * s.height b → o < s.cfg.bufBytes →
    m.read (bufAddr b o) = s.mem.read (bufAddr b o)

/-- The outcome is `t` but for bytes outside the grids. -/
def State.AlikeOutcome (t : State) (o : Outcome) : Prop := ∃ m, o = .next (t.withMem m) ∧ t.GridsAgree m

/-- A valid grid reads the same (10_state.md R47). -/
theorem State.GridsAgree.readBuf (h : s.GridsAgree m) {b o : Nat} (hb : b < s.cfg.nbuf) (hv : s.ValidDims b)
    (ho : o < s.width b * s.height b) : (s.withMem m).readBuf b o = s.readBuf b o := by
  obtain ⟨_, _, fits, _, _⟩ := hv
  show (match m.read (bufAddr b o) with
    | some v => v
    | none => Config.unwrittenByte s.tick (bufAddr b o)) = s.readBuf b o
  rw [h b o hb ho (by omega)]
  rfl

/-- So do its tiles. -/
theorem State.GridsAgree.tile (h : s.GridsAgree m) {b p q : Nat} (hb : b < s.cfg.nbuf) (hv : s.ValidDims b)
    (hp : p < s.tileRows b) (hq : q < s.tileCols b) : MatEq s.n ((s.withMem m).tile b p q) (s.tile b p q) :=
  fun _ _ hi hj => h.readBuf hb hv (tile_offset_lt hp hq hi hj).2.2

theorem State.GridsAgree.tileDet (h : s.GridsAgree m) {b : Nat} {x : Nat × Nat} (hb : b < s.cfg.nbuf)
    (hv : s.ValidDims b) (hp : x.1 < s.tileRows b) (hq : x.2 < s.tileCols b) :
    (s.withMem m).tileDet b x = s.tileDet b x :=
  detMod_congr (h.tile hb hv hp hq)

/-! #### The endings -/

theorem State.GridsAgree.writeResult (h : s.GridsAgree m) (w : Word) : (s.writeResult w).GridsAgree m := h

theorem State.GridsAgree.afterDraws (h : s.GridsAgree m) (k : Nat) : (s.afterDraws k).GridsAgree m := h

/-- A completion that commits nothing. -/
theorem State.GridsAgree.complete (h : s.GridsAgree m) (hs : s.staged = none) (e : ErrCode) (info : Word) :
    (s.complete e info).AlikeOutcome (.next ((s.withMem m).complete e info)) := by
  obtain ⟨hm, hd, _⟩ := State.complete_buffers hs e info
  refine ⟨m, ?_, fun b o hb ho hcap => ?_⟩
  · simp [State.complete, State.withMem, State.committedMem, State.committedDims, State.committedValid, hs]
  · unfold State.width State.height State.dim at ho
    rw [hd] at ho
    rw [hm]
    exact h b o hb ho hcap

/-- A committed grid: the bytes of the destination are those of the command, the other grids are as they were. -/
theorem State.GridsAgree.commitGrid (h : s.GridsAgree m) (hl : s.cfg.Legal) {d : Nat} {dim : Word}
    {bytes : List Byte} (hlen : bytes.length = lowHalf dim * highHalf dim) :
    (s.commitGrid d dim bytes).AlikeOutcome (.next ((s.withMem m).commitGrid d dim bytes)) := by
  refine ⟨m.writeBytes (bufAddr d 0) bytes, ?_, fun b o hb ho hcap => ?_⟩
  · rw [State.commitGrid_eq, State.commitGrid_eq]; rfl
  · rw [State.commitGrid_read, Memory.read_writeBytes]
    split
    · rfl
    · rename_i outside
      have hbuf : b < s.cfg.nbuf := by rw [State.commitGrid_eq] at hb; exact hb
      have other : b ≠ d := by
        rintro rfl
        unfold State.width State.height at ho
        rw [(State.commitGrid_destination hl hbuf dim bytes).1, ← hlen] at ho
        exact outside (by unfold bufAddr; omega)
      unfold State.width State.height at ho
      rw [(State.commitGrid_other dim bytes other).1] at ho
      exact h b o hbuf ho (by rw [State.commitGrid_eq] at hcap; exact hcap)

/-- One attempt of GENKEY reads no buffer byte. -/
theorem State.GridsAgree.genkeyAttempt (h : s.GridsAgree m) (hl : s.cfg.Legal) (hs : s.staged = none) (d : Nat)
    (c : Bool) (g : GenProgress) :
    (s.genkeyAttempt d c g).AlikeOutcome (.next ((s.withMem m).genkeyAttempt d c g)) := by
  have succeeds : (s.withMem m).attemptSucceeds = s.attemptSucceeds := rfl
  have count : (s.withMem m).genCount d c = s.genCount d c := rfl
  have ceiling : (s.withMem m).lmaxatt = s.lmaxatt := rfl
  have drawn : ((s.afterDraws (s.n * s.n)).writeAttempts (saturatingSucc g.total)).GridsAgree m := h
  unfold State.genkeyAttempt
  rw [succeeds, count, ceiling]
  dsimp only
  split
  · split
    · exact drawn.commitGrid hl (length_gridBytes _ _ _ _)
    · exact ⟨m, rfl, h⟩
  · split
    · exact drawn.complete hs .genExhausted _
    · exact ⟨m, rfl, h⟩

/-- Validation reads no buffer byte; what runs after it decides. -/
theorem State.GridsAgree.validated (h : s.GridsAgree m) (hs : s.staged = none) {k : Checks}
    {f : State → Outcome} (he : s.validated k f = .next t)
    (hf : s.firstError k = none → f s = .next t → t.AlikeOutcome (f (s.withMem m))) :
    t.AlikeOutcome ((s.withMem m).validated k f) := by
  rcases State.validated_cases he with ⟨e, hfail, rfl⟩ | ⟨hpass, hrun⟩
  · rw [State.validated_of_some (s := s.withMem m) (e := e) hfail]
    exact h.complete hs e 0
  · rw [State.validated_of_none (s := s.withMem m) hpass]
    exact hf hpass hrun

/-- A command that commits a grid built from tiles that read the same. -/
theorem State.GridsAgree.commitTiles (h : s.GridsAgree m) (hl : s.cfg.Legal) {d b : Nat} (hv : s.ValidDims b)
    {f g : Nat → Nat → Mat} (hfg : ∀ p q, p < s.tileRows b → q < s.tileCols b → MatEq s.n (g p q) (f p q)) :
    (s.commitGrid d (s.dim b) (gridBytes s.n (s.width b) (s.height b) f)).AlikeOutcome
      (.next ((s.withMem m).commitGrid d (s.dim b) (gridBytes s.n (s.width b) (s.height b) g))) := by
  obtain ⟨_, _, _, hw, hh⟩ := hv
  rw [gridBytes_congr hw hh hfg]
  exact h.commitGrid hl (length_gridBytes _ _ _ _)

/-- INVKEY examines tiles of its source only (45_inverter.md R284). -/
theorem State.invkeyTiles_lt {a : Nat} {c : Bool} (hb : s.BlockLegal) (hv : s.ValidDims a) {x : Nat × Nat}
    (hx : x ∈ s.invkeyTiles a c) : x.1 < s.tileRows a ∧ x.2 < s.tileCols a := by
  cases c
  · obtain rfl := List.mem_singleton.1 hx
    exact State.tiles_pos hb hv
  · exact mem_blockOrder.1 hx

/-- INVKEY finds the same singular tile, if any. -/
theorem State.GridsAgree.firstSingular (h : s.GridsAgree m) {a : Nat} (c : Bool) (ha : a < s.cfg.nbuf)
    (hb : s.BlockLegal) (hv : s.ValidDims a) : (s.withMem m).firstSingular a c = s.firstSingular a c := by
  have same : ∀ x ∈ s.invkeyTiles a c, (!isOdd ((s.withMem m).tileDet a x)) = !isOdd (s.tileDet a x) := by
    intro x hx
    obtain ⟨hp, hq⟩ := State.invkeyTiles_lt hb hv hx
    rw [h.tileDet ha hv hp hq]
  exact List.find?_congr same

/-! #### The commands -/

section Commands

variable (h : s.GridsAgree m) (hl : s.cfg.Legal) (hs : s.staged = none)

include h hl hs

theorem State.GridsAgree.execMmul {d a b : Nat} (he : execMmul d a b s = .next t) :
    t.AlikeOutcome (execMmul d a b (s.withMem m)) := by
  refine h.validated hs he fun hpass hrun => ?_
  injection hrun with hrun; subst hrun
  obtain ⟨used, _, _, grids, ⟨hw, hh⟩⟩ := (mmulChecks_pass d a b).1 hpass
  have ha := used a (by simp [usedBuffers])
  have hb := used b (by simp [usedBuffers])
  have hva := grids a (by simp [gridBuffers])
  have hvb := grids b (by simp [gridBuffers])
  refine h.commitTiles hl hvb fun p q hp hq => mulMod_congr (h.tile ha hva ?_ ?_) (h.tile hb hvb hp hq)
  · unfold State.tileRows; rw [hh]; exact hp
  · unfold State.tileCols; rw [hw]; exact hq

theorem State.GridsAgree.execXor {d a b : Nat} (he : execXor d a b s = .next t) :
    t.AlikeOutcome (execXor d a b (s.withMem m)) := by
  refine h.validated hs he fun hpass hrun => ?_
  injection hrun with hrun; subst hrun
  obtain ⟨used, _, _, grids, ⟨hw, hh⟩⟩ := (xorChecks_pass d a b).1 hpass
  have ha := used a (by simp [usedBuffers])
  have hb := used b (by simp [usedBuffers])
  have hva := grids a (by simp [gridBuffers])
  have hvb := grids b (by simp [gridBuffers])
  refine h.commitTiles hl hva fun p q hp hq => xorTile_congr (h.tile ha hva hp hq) (h.tile hb hvb ?_ ?_)
  · unfold State.tileRows; rw [← hh]; exact hp
  · unfold State.tileCols; rw [← hw]; exact hq

omit hl in
theorem State.GridsAgree.execDet {a : Nat} (he : execDet a s = .next t) :
    t.AlikeOutcome (execDet a (s.withMem m)) := by
  refine h.validated hs he fun hpass hrun => ?_
  obtain ⟨used, _, _, grids, _⟩ := (detChecks_pass a).1 hpass
  by_cases hr : s.TileInRange a
  · rw [if_pos hr] at hrun
    rw [if_pos (show (s.withMem m).TileInRange a from hr)]
    injection hrun with hrun; subst hrun
    have hdet : (s.withMem m).detOfTile a = s.detOfTile a :=
      detMod_congr (h.tile (used a (by simp [usedBuffers])) (grids a (by simp [gridBuffers])) hr.1 hr.2)
    rw [hdet]
    exact (h.writeResult (resultWord (isOdd (s.detOfTile a)) (s.detOfTile a))).complete hs .none 0
  · rw [if_neg hr] at hrun
    rw [if_neg (show ¬ (s.withMem m).TileInRange a from hr)]
    injection hrun with hrun; subst hrun
    exact h.complete hs .badTile 0

theorem State.GridsAgree.execInvkey {d a : Nat} {c : Bool} (he : execInvkey d a c s = .next t) :
    t.AlikeOutcome (execInvkey d a c (s.withMem m)) := by
  refine h.validated hs he fun hpass hrun => ?_
  obtain ⟨used, hb, _, grids, _⟩ := (invkeyChecks_pass d a c).1 hpass
  have ha := used a (by simp [usedBuffers])
  have hv := grids a (by simp [gridBuffers])
  have first := State.tiles_pos hb hv
  rw [h.firstSingular c ha hb hv]
  cases hx : s.firstSingular a c with
  | some x =>
    rw [hx] at hrun
    injection hrun with hrun; subst hrun
    have range := State.invkeyTiles_lt hb hv (List.mem_of_find?_eq_some hx)
    dsimp only
    rw [h.tileDet ha hv range.1 range.2]
    exact (h.writeResult (resultWord false (s.tileDet a x))).complete hs .nonInvertible _
  | none =>
    rw [hx] at hrun
    injection hrun with hrun; subst hrun
    dsimp only
    rw [h.tileDet ha hv first.1 first.2]
    refine (h.writeResult (resultWord true (s.tileDet a (0, 0)))).commitTiles hl hv fun p q hp hq => invMod_congr ?_
    cases c
    · exact h.tile ha hv first.1 first.2
    · exact h.tile ha hv hp hq

theorem State.GridsAgree.execGenkey {d : Nat} {c : Bool} (he : execGenkey d c s = .next t) :
    t.AlikeOutcome (execGenkey d c (s.withMem m)) := by
  cases hg : s.gen with
  | none =>
    rw [execGenkey_start hg] at he
    rw [execGenkey_start (s := s.withMem m) hg]
    refine h.validated hs he fun _ hrun => ?_
    injection hrun with hrun; subst hrun
    exact ⟨m, rfl, h⟩
  | some g =>
    rw [execGenkey_attempt hg] at he
    rw [execGenkey_attempt (s := s.withMem m) hg]
    injection he with he; subst he
    exact h.genkeyAttempt hl hs d c g

theorem State.GridsAgree.execTilekey {d a : Nat} (he : execTilekey d a s = .next t) :
    t.AlikeOutcome (execTilekey d a (s.withMem m)) := by
  refine h.validated hs he fun hpass hrun => ?_
  injection hrun with hrun; subst hrun
  obtain ⟨used, hb, _, grids, _⟩ := (tilekeyChecks_pass d a).1 hpass
  have hva := grids a (by simp [gridBuffers])
  obtain ⟨hp, hq⟩ := State.tiles_pos hb hva
  exact h.commitTiles hl (grids d (by simp [gridBuffers])) fun _ _ _ _ =>
    h.tile (used a (by simp [usedBuffers])) hva hp hq

theorem State.GridsAgree.execRand {d : Nat} (he : execRand d s = .next t) :
    t.AlikeOutcome (execRand d (s.withMem m)) := by
  refine h.validated hs he fun _ hrun => ?_
  injection hrun with hrun; subst hrun
  exact (h.afterDraws _).commitGrid hl (State.length_drawBytes _)

/-- A command's step from two states that agree on the grids ends alike (10_state.md R47). -/
theorem State.GridsAgree.exec {i : Instr} (he : exec i s = .next t) : t.AlikeOutcome (exec i (s.withMem m)) := by
  cases i with
  | nop =>
    injection he with he; subst he
    exact h.complete hs .none 0
  | mmul => exact h.execMmul hl hs he
  | det => exact h.execDet hs he
  | invkey => exact h.execInvkey hl hs he
  | genkey => exact h.execGenkey hl hs he
  | tilekey => exact h.execTilekey hl hs he
  | rand => exact h.execRand hl hs he
  | xor => exact h.execXor hl hs he

end Commands

/-- A command keeps the configuration. -/
theorem exec_cfg {i : Instr} (he : exec i s = .next t) : t.cfg = s.cfg := by
  obtain ⟨w, _, hends⟩ := exec_ends he
  have frame := hends.frame
  exact (congrArg State.cfg frame).trans rfl

/-- Settles O29: each command reads tiles of valid grids only, and commits what it read. -/
theorem commandsIgnoreBytesOutsideGrids : Obligations.CommandsIgnoreBytesOutsideGrids := by
  intro i s t m hl hs he hm
  have agree : s.GridsAgree m := fun b o hb ho _ => hm b o hb ho
  obtain ⟨m', hexec, agree'⟩ := agree.exec hl hs he
  refine ⟨t.withMem m', hexec, rfl, fun b o hb ho hcap => ?_⟩
  rw [← exec_cfg he] at hb hcap
  exact agree' b o hb ho hcap

end OutsideGrids

section Registers

variable {s t : State}

/-! ### The register page, one register at a time (20_memory.md R82, R83) -/

/-- The register `r` stands at the address `addr`. -/
abbrev RegisterAt (addr : Word) (r : Reg) : Prop :=
  addr.toNat < 0x1000 ∧ addr.toNat % 4 = 0 ∧ regAt addr.toNat = r

theorem RegisterAt.target {addr : Word} {r : Reg} (h : RegisterAt addr r) (c : Config) :
    targetOf c addr .word = .reg r := by
  obtain ⟨hpage, haligned, hr⟩ := h
  rw [targetOf_page hpage haligned, hr]

theorem RegisterAt.memRead {addr : Word} {r : Reg} (h : RegisterAt addr r) (s : State) :
    s.memRead addr .word = .data (s.readReg r) := by
  unfold State.memRead; rw [h.target]

theorem RegisterAt.memWrite {addr : Word} {r : Reg} (h : RegisterAt addr r) (s : State) (v : Word) :
    s.memWrite addr .word v = s.writeReg v r := by
  unfold State.memWrite; rw [h.target]

theorem RegisterAt.memWriteResponse {addr : Word} {r : Reg} (h : RegisterAt addr r) (s : State) :
    s.memWriteResponse addr .word = .ok := by
  unfold State.memWriteResponse; rw [h.target]

/-- DIM[b] stands at 0x40 + 4·b. -/
theorem registerAt_dim {b : Nat} (hb : b < 16) : RegisterAt (BitVec.ofNat 32 (0x40 + 4 * b)) (.dim b) := by
  have addr : (BitVec.ofNat 32 (0x40 + 4 * b)).toNat = 0x40 + 4 * b := by
    rw [BitVec.toNat_ofNat]; omega
  unfold RegisterAt
  rw [addr]
  refine ⟨by omega, by omega, ?_⟩
  rw [regAt_dim (by omega) (by omega)]
  congr 1; omega

/-- The registers whose writes are dropped while busy (10_state.md R49). -/
def Reg.droppedWhenBusy : Reg → Bool
  | .cmd | .block | .maxatt | .tile | .valid | .dim _ => true
  | .id | .param | .ctrl | .status | .result | .attempts | .errinfo | .unmapped => false

theorem State.writeReg_busy (hb : s.phase = .busy) (v : Word) {r : Reg} (hr : r.droppedWhenBusy = true) :
    s.writeReg v r = { s with busywr := true } := by
  cases r with
  | cmd | block | maxatt | tile | valid | dim => exact State.unlessBusy_busy hb _
  | id | param | ctrl | status | result | attempts | errinfo | unmapped => cases hr

/-- Where the registers stand whose writes are dropped while busy (20_memory.md R83). -/
theorem droppedWhenBusy_regAt {off : Nat}
    (h : off = 0x10 ∨ off = 0x14 ∨ off = 0x18 ∨ off = 0x1C ∨ off = 0x2C ∨ (0x40 ≤ off ∧ off < 0x80)) :
    (regAt off).droppedWhenBusy = true := by
  rcases h with rfl | rfl | rfl | rfl | rfl | ⟨hlow, hhigh⟩
  case inr.inr.inr.inr.inr => rw [regAt_dim hlow hhigh]; rfl
  all_goals rfl

/-- Settles O46: each offset names a register or a byte whose write is dropped, or a register that ignores it. -/
theorem busyWritesAreDropped : Obligations.BusyWritesAreDropped := by
  intro s addr v
  refine ⟨fun hb h4 haddr => ?_, fun size hb hlow hhigh haligned hbytes => ?_, fun h4 hpage haddr => ?_⟩
  · have hr : RegisterAt addr (regAt addr.toNat) := ⟨by omega, h4, rfl⟩
    exact ⟨by rw [hr.memWrite, State.writeReg_busy hb v (droppedWhenBusy_regAt haddr)], hr.memWriteResponse s⟩
  · have hpos := size.bytes_pos
    have last := hbytes (size.bytes - 1) (by omega)
    have target := targetOf_window (c := s.cfg) hlow hhigh haligned last.1 (by omega)
    unfold State.memWrite State.memWriteResponse
    rw [target]
    exact ⟨State.unlessBusy_busy hb _, rfl⟩
  · have hr : RegisterAt addr (regAt addr.toNat) := ⟨hpage, h4, rfl⟩
    exact ⟨by rw [hr.memWrite, State.writeReg_readOnly v (regAt_readOnly h4 haddr)], hr.memWriteResponse s⟩

/-- Settles O50: the bit of the complement mask. -/
theorem validIsWriteOneToClear : Obligations.ValidIsWriteOneToClear := by
  intro s v hi
  have write : s.memWrite 0x0000002C .word v = s.discard v := by
    rw [RegisterAt.memWrite (r := .valid) (by decide)]
    exact State.unlessBusy_idle hi _
  rw [write]
  refine ⟨rfl, fun b hb => ?_⟩
  show (decide (b < s.cfg.nbuf) && (s.valid &&& ~~~(v.setWidth 16)).getLsbD b) = _
  rw [BitVec.getLsbD_and, BitVec.getLsbD_not, BitVec.getLsbD_setWidth, decide_eq_true hb, Bool.true_and,
    Bool.true_and, ← Bool.and_assoc]
  rfl

/-- Settles O51: while IDLE each of the three writes takes effect. -/
theorem configurationReadsBack : Obligations.ConfigurationReadsBack := by
  intro s v hi
  have block : RegisterAt 0x00000014 .block := by decide
  have maxatt : RegisterAt 0x00000018 .maxatt := by decide
  have tile : RegisterAt 0x0000001C .tile := by decide
  have writeBlock : s.memWrite 0x00000014 .word v = { s with block := v.setWidth 8 } :=
    (block.memWrite s v).trans (State.unlessBusy_idle hi _)
  have writeMaxatt : s.memWrite 0x00000018 .word v = { s with maxatt := v } :=
    (maxatt.memWrite s v).trans (State.unlessBusy_idle hi _)
  have writeTile : s.memWrite 0x0000001C .word v = { s with tileReg := v } :=
    (tile.memWrite s v).trans (State.unlessBusy_idle hi _)
  rw [writeBlock, writeMaxatt, writeTile, block.memRead, maxatt.memRead, tile.memRead]
  refine ⟨rfl, ?_, rfl, rfl, rfl, rfl⟩
  congr 1
  apply BitVec.eq_of_toNat_eq
  simp [State.readReg, State.blockWord]

/-- What STATUS reads as, as a number (10_state.md R36). -/
theorem State.toNat_statusWord (s : State) :
    s.statusWord.toNat
      = s.busy.toNat + 2 * s.done.toNat + 4 * s.errs.toNat + 8 * s.busywr.toNat + 256 * s.err.number.toNat := by
  simp only [State.statusWord, toNat_append_eq, BitVec.toNat_ofBool, BitVec.toNat_ofNat]
  norm_num
  ring

/-- Settles O52: the word read is its number, and the write is the acknowledge. -/
theorem statusReadAndAcknowledge : Obligations.StatusReadAndAcknowledge := by
  intro s v
  have status : RegisterAt 0x0000000C .status := by decide
  rw [status.memRead, status.memWrite]
  refine ⟨?_, rfl⟩
  rw [← State.toNat_statusWord]
  refine congrArg Response.data (BitVec.eq_of_toNat_eq ?_)
  rw [BitVec.toNat_ofNat, Nat.mod_eq_of_lt s.statusWord.isLt]
  rfl

/-- Bit k of a word as a number. -/
theorem toNat_getLsbD (v : Word) (k : Nat) : (v.getLsbD k).toNat = v.toNat / 2 ^ k % 2 := by
  rw [BitVec.getLsbD, Nat.toNat_testBit]

/-- Settles O53: the two bits of CTRL are the low bits of what is written. -/
theorem ctrlWriteActs : Obligations.CtrlWriteActs := by
  intro s v hv
  have ctrl : RegisterAt 0x00000008 .ctrl := by decide
  have write : s.memWrite 0x00000008 .word v = { s with ie := v.getLsbD 0, rngzero := v.getLsbD 1 } :=
    (ctrl.memWrite s v).trans (State.writeCtrl_of_noReset hv)
  rw [write, ctrl.memRead]
  refine ⟨rfl, congrArg Response.data (BitVec.eq_of_toNat_eq ?_)⟩
  simp only [State.readReg, State.ctrlWord, toNat_append_eq, BitVec.toNat_ofBool, BitVec.toNat_ofNat, toNat_getLsbD]
  norm_num
  omega

/-- DIM[x] after a host write of DIM[b] (10_state.md R44). -/
theorem State.writeDim_dim {b : Nat} (hb : b < 16) (v : Word) (x : Nat) :
    (s.writeDim b v).dim x = if b < s.cfg.nbuf ∧ x = b then v else s.dim x := by
  show (if x < s.cfg.nbuf then (s.dimsWith b v)[x]?.getD 0 else 0) = _
  rw [dimsWith_get b x v hb, State.dim_mk]
  by_cases hx : b < s.cfg.nbuf ∧ x = b
  · rw [if_pos hx, if_pos hx, if_pos (hx.2 ▸ hx.1)]
  · rw [if_neg hx, if_neg hx]

/-- VALID[x] after a host write of DIM[b] (10_state.md R44). -/
theorem State.writeDim_isValid {b : Nat} (hb : b < s.cfg.nbuf) (v : Word) (x : Nat) :
    (s.writeDim b v).isValid x = (s.isValid x && decide (x ≠ b)) := by
  show (decide (x < s.cfg.nbuf) && (State.writeDim s b v).valid.getLsbD x) = _
  rw [State.writeDim_valid, if_pos hb, BitVec.getLsbD_and, BitVec.getLsbD_not, validBit_get]
  unfold State.isValid
  by_cases h16 : x < 16
  · simp [h16, Bool.and_assoc]
  · simp [BitVec.getLsbD_of_ge s.valid x (by omega)]

/-- Settles O49: an idle write is writeDim, which does nothing for an absent buffer. -/
theorem dimWriteClearsValid : Obligations.DimWriteClearsValid := by
  intro s b v hl hi hb
  have dim := registerAt_dim hb
  have write : s.memWrite (BitVec.ofNat 32 (0x40 + 4 * b)) .word v = s.writeDim b v :=
    (dim.memWrite s v).trans (State.unlessBusy_idle hi _)
  rw [write, dim.memRead]
  refine ⟨fun hlt => ⟨?_, ?_, fun x hx => ⟨?_, ?_⟩, rfl⟩, fun hge => ⟨?_, ?_⟩⟩
  · rw [State.writeDim_dim hb, if_pos ⟨hlt, rfl⟩]
  · rw [State.writeDim_isValid hlt]; simp
  · rw [State.writeDim_dim hb, if_neg fun h => hx h.2]
  · rw [State.writeDim_isValid hlt]; simp [hx]
  · unfold State.writeDim State.dimsWith
    rw [if_neg (by omega), if_neg (by omega)]
  · exact congrArg Response.data (if_neg (by omega))

/-- Settles O55: the step is driveReset, and each register of power-on is read off. -/
theorem powerOnResetValues : Obligations.PowerOnResetValues := by
  intro s t level rest hin hreset ht
  have reset : (level || (s.withInputs rest).rst) = true := by
    rcases hreset with h | h <;> simp [h]
  have ht : t = (s.withInputs rest).driveReset level := by
    unfold hostStep at ht
    rw [hin] at ht
    injection ht with ht
    exact ht.symm
  unfold State.driveReset at ht
  rw [if_pos reset] at ht
  subst ht
  refine ⟨rfl, rfl, rfl, rfl, rfl, rfl, ?_, ?_, rfl, rfl, rfl, rfl, rfl, rfl, ?_, fun b => ?_,
    rfl, fun _ => rfl, rfl, rfl, rfl⟩
  · show 0#30 ++ BitVec.ofBool false ++ BitVec.ofBool false = 0
    decide
  · exact BitVec.eq_of_toNat_eq (State.toNat_statusWord _)
  · show (0#16 &&& _).setWidth 32 = 0
    rw [BitVec.zero_and]; rfl
  · show (if b < s.cfg.nbuf then (Vector.replicate 16 (0 : Word))[b]?.getD 0 else 0) = 0
    rw [powerOn_dims]
    exact ite_self 0

/-- What PARAM reads as, as a number (10_state.md R34). -/
theorem toNat_paramWord {c : Config} (h : c.Legal) :
    (paramWord c).toNat = c.nmax + 256 * c.nbuf + 65536 * c.logbuf := by
  obtain ⟨_, _, _, _, _⟩ := h
  simp only [paramWord, toNat_append_eq, BitVec.toNat_ofNat]
  norm_num
  omega

/-- A bit of what VALID reads as (10_state.md R43). -/
theorem State.getLsbD_validWord (s : State) (b : Nat) : s.validWord.getLsbD b = s.isValid b := by
  unfold State.validWord State.isValid
  rw [BitVec.getLsbD_setWidth, BitVec.getLsbD_and, BitVec.getLsbD_ofNat, Nat.testBit_two_pow_sub_one]
  by_cases h16 : b < 16
  · simp [h16, show b < 32 by omega, Bool.and_comm]
  · simp [BitVec.getLsbD_of_ge s.valid b (by omega)]

/-- Settles O56: each address names its register. -/
theorem constantRegistersRead : Obligations.ConstantRegistersRead := by
  intro s hl
  have reads : ∀ {addr : Word} {r : Reg}, RegisterAt addr r → s.memRead addr .word = .data (s.readReg r) :=
    fun h => h.memRead s
  refine ⟨reads (r := .id) (by decide), ?_, reads (r := .cmd) (by decide), fun addr h4 hpage hun => ?_,
    reads (r := .result) (by decide), reads (r := .attempts) (by decide), reads (r := .errinfo) (by decide),
    ⟨_, reads (r := .valid) (by decide), fun b => ?_⟩, fun b hb => ?_⟩
  · rw [reads (r := .param) (by decide)]
    refine congrArg Response.data (BitVec.eq_of_toNat_eq ?_)
    have value := toNat_paramWord hl
    have small := (paramWord s.cfg).isLt
    rw [BitVec.toNat_ofNat, ← value, Nat.mod_eq_of_lt small]
    rfl
  · exact reads (r := .unmapped) ⟨hpage, h4, regAt_unmapped h4 hun⟩
  · exact State.getLsbD_validWord s b
  · obtain ⟨_, _, _, hn, _⟩ := hl
    have h16 : b < 16 := lt_of_lt_of_le hb hn
    rw [reads (registerAt_dim h16)]
    refine congrArg Response.data ((if_pos hb).trans ?_)
    rw [getElem!_pos s.dims b h16, Vector.getElem?_eq_getElem h16]
    rfl

end Registers

section BusyHost

variable {s t : State}

/-! ### The Host while a command runs -/

/-- `t` is `s` but for CTRL, STATUS and the Host's own view. -/
def State.KeepsCommand (t s : State) : Prop :=
  t = { s with
    ie := t.ie, rngzero := t.rngzero, done := t.done, errs := t.errs, busywr := t.busywr, rst := t.rst,
    inputs := t.inputs, responses := t.responses }

/-- A register write while busy keeps the command, unless it is a soft reset (10_state.md R49). -/
theorem State.writeReg_keepsCommand (hb : s.phase = .busy) (v : Word) {r : Reg}
    (hr : r = .ctrl → v.getLsbD 2 = false) : (s.writeReg v r).KeepsCommand s := by
  cases r with
  | id | param | result | attempts | errinfo | unmapped | status => rfl
  | ctrl =>
    show (s.writeCtrl v).KeepsCommand s
    rw [State.writeCtrl_of_noReset (hr rfl)]
    rfl
  | cmd | block | maxatt | tile | valid | dim =>
    rw [State.writeReg_busy hb v rfl]
    rfl

/-- A host write while busy is a soft reset or keeps the command. -/
theorem State.memWrite_busy_cases (hb : s.phase = .busy) (addr : Word) (size : AccessSize) (v : Word) :
    (addr = 0x00000008 ∧ size = .word ∧ v.getLsbD 2 = true) ∨ (s.memWrite addr size v).KeepsCommand s := by
  unfold State.memWrite
  split
  · rename_i r htarget
    obtain ⟨_, hsize, _, hreg⟩ := targetOf_reg htarget
    by_cases hreset : r = .ctrl ∧ v.getLsbD 2 = true
    · have at8 : addr.toNat = 0x008 := regAt_ctrl (hreg.symm.trans hreset.1)
      exact .inl ⟨BitVec.eq_of_toNat_eq at8, hsize, hreset.2⟩
    · exact .inr (State.writeReg_keepsCommand hb v fun hctrl => by simpa [hctrl] using hreset)
  · rw [State.unlessBusy_busy hb]
    exact .inr rfl
  · exact .inr rfl

/-- A Host step while busy is a soft reset, a level of the reset input that resets, or keeps the command. -/
theorem hostStep_busy_cases (hb : s.phase = .busy) (h : hostStep s = .next t) :
    (∃ v rest, s.inputs = .write 0x00000008 .word v :: rest ∧ v.getLsbD 2 = true ∧
      t = s.transact (.write 0x00000008 .word v) rest) ∨
    (t.phase = .idle ∧ ∃ level rest, s.inputs = .rst level :: rest ∧ (level = true ∨ s.rst = true)) ∨
    t.KeepsCommand s := by
  rcases hostStep_cases h with ⟨_, rfl⟩ | ⟨op, rest, hin, rfl, _⟩
  · exact .inr (.inr rfl)
  cases op with
  | read addr size => exact .inr (.inr rfl)
  | write addr size v =>
    rcases State.memWrite_busy_cases hb addr size v with ⟨rfl, rfl, hv⟩ | hkeep
    · exact .inl ⟨v, rest, hin, hv, rfl⟩
    · refine .inr (.inr ?_)
      rw [State.transact_write]
      unfold State.KeepsCommand at hkeep
      rw [hkeep]
      rfl
  | wait =>
    have busy : s.busy = true := by simp [State.busy, hb]
    refine .inr (.inr ?_)
    unfold State.transact
    dsimp only
    rw [if_pos busy]
    rfl
  | rst level =>
    show _ ∨ (((s.withInputs rest).driveReset level).phase = .idle ∧ _) ∨
      ((s.withInputs rest).driveReset level).KeepsCommand s
    unfold State.driveReset
    by_cases hreset : (level || (s.withInputs rest).rst) = true
    · rw [if_pos hreset]
      exact .inr (.inl ⟨rfl, level, rest, hin, by simpa using hreset⟩)
    · rw [if_neg hreset]
      exact .inr (.inr rfl)

/-- Settles O48: the three kinds of Host step while busy. -/
theorem hostCannotDisturbCommand : Obligations.HostCannotDisturbCommand := by
  intro s t hb ht
  rcases hostStep_busy_cases hb ht with ⟨v, rest, hin, hv, rfl⟩ | hreset | hkeep
  · have ctrl : RegisterAt 0x00000008 .ctrl := by decide
    have soft : s.memWrite 0x00000008 .word v = s.softReset :=
      (ctrl.memWrite s v).trans (if_pos hv)
    have effect := s.transact_write 0x00000008 .word v rest
    rw [ctrl.memWriteResponse] at effect
    refine .inl ⟨?_, v, rest, hin, hv, effect⟩
    rw [effect, soft]
    rfl
  · exact .inr (.inl hreset)
  · refine .inr (.inr ?_)
    rw [show t = _ from hkeep]
    exact ⟨hb, rfl, rfl, rfl, rfl, rfl, rfl, rfl, rfl, rfl, rfl, rfl, rfl, rfl, rfl, rfl, rfl, rfl, rfl, rfl⟩

end BusyHost

end Sys2Proof.Machine


/-! The statements of 20_memory.md: bus errors, reads and writes as steps, and buffer writes. -/

namespace Sys2Proof.Machine

section HostTransactions

variable {s : State}

/-! ### Accesses that get a bus error (20_memory.md R80, R84, R85, R86) -/

/-- Every byte of a buffer access exists, not only the first and the last (20_memory.md R85). -/
theorem targetOf_buffer_bytes {c : Config} {addr : Word} {size : AccessSize} {b o j : Nat}
    (h : targetOf c addr size = .buffer b o) (hj : j < size.bytes) :
    (addr.toNat + j) / 0x00100000 % 16 < c.nbuf ∧ (addr.toNat + j) % 0x00100000 < c.bufBytes := by
  obtain ⟨⟨hb, _⟩, ⟨_, hlast⟩, haligned, _⟩ := targetOf_buffer h
  obtain ⟨_, _, rfl, rfl⟩ := targetOf_buffer_window h
  -- An aligned access does not cross the end of a buffer's window, so each of its bytes has the first one's buffer.
  have inside : addr.toNat % 0x00100000 + j < 0x00100000 := by
    cases size <;> simp only [AccessSize.bytes] at haligned hj <;> omega
  have buffer : (addr.toNat + j) / 0x00100000 = addr.toNat / 0x00100000 := by omega
  have offset : (addr.toNat + j) % 0x00100000 = addr.toNat % 0x00100000 + j := by omega
  rw [buffer, offset]
  exact ⟨hb, by omega⟩

/-- An access that reaches neither a register nor existing bytes gets a bus error. -/
theorem targetOf_busError {c : Config} {addr : Word} {size : AccessSize}
    (hreg : addr.toNat < 0x1000 → size = .word → addr.toNat % 4 ≠ 0)
    (hbuf : 0x01000000 ≤ addr.toNat → addr.toNat < 0x02000000 → addr.toNat % size.bytes = 0 →
      ∃ j, j < size.bytes ∧ ¬ ((addr.toNat + j) / 0x00100000 % 16 < c.nbuf
        ∧ (addr.toNat + j) % 0x00100000 < c.bufBytes)) :
    targetOf c addr size = .busError := by
  cases target : targetOf c addr size with
  | busError => rfl
  | reg r =>
    obtain ⟨hpage, hsize, h4, _⟩ := targetOf_reg target
    exact absurd h4 (hreg hpage hsize)
  | buffer b o =>
    obtain ⟨_, _, haligned, _⟩ := targetOf_buffer target
    obtain ⟨hlow, hhigh, _, _⟩ := targetOf_buffer_window target
    obtain ⟨j, hj, absent⟩ := hbuf hlow hhigh haligned
    exact absurd (targetOf_buffer_bytes target hj) absent

section BusError

variable {addr : Word} {size : AccessSize} (h : targetOf s.cfg addr size = .busError)
include h

theorem State.memWrite_busError (v : Word) : s.memWrite addr size v = s := by
  unfold State.memWrite; rw [h]

theorem State.memWriteResponse_busError : s.memWriteResponse addr size = .busError := by
  unfold State.memWriteResponse; rw [h]

theorem State.memRead_busError : s.memRead addr size = .busError := by
  unfold State.memRead; rw [h]

end BusError

/-- The Host's step on a read gives it the answer, and changes nothing else (20_memory.md R90). -/
theorem State.transact_read (s : State) (addr : Word) (size : AccessSize) (rest : List HostOp) :
    s.transact (.read addr size) rest
      = { s with inputs := rest, responses := s.memRead addr size :: s.responses } := rfl

/-- Settles O43: each listed kind of access has the target busError. -/
theorem busErrorsChangeNothing : Obligations.BusErrorsChangeNothing := by
  intro s addr size v rest haccess
  have target : targetOf s.cfg addr size = .busError := by
    rcases haccess with ⟨hpage, hwidth⟩ | hgap | habove | ⟨hlow, _, hmisaligned⟩ | ⟨hlow, _, habsent⟩
    · refine targetOf_busError (fun _ hword => hwidth.resolve_left (not_not_intro hword)) fun _ => ?_
      omega
    · exact targetOf_busError (by omega) (by omega)
    · exact targetOf_busError (by omega) (by omega)
    · exact targetOf_busError (by omega) fun _ _ haligned => absurd haligned hmisaligned
    · exact targetOf_busError (by omega) fun _ _ _ => habsent
  refine ⟨State.memWrite_busError target v, ?_, ?_⟩
  · rw [State.transact_write, State.memWrite_busError target, State.memWriteResponse_busError target]
  · rw [State.transact_read, State.memRead_busError target]

/-! ### A transaction as a step (20_memory.md R90) -/

/-- When it is the Host's turn the step is its next transaction, on the machine as the step begins. -/
theorem step_transact {op : HostOp} {rest : List HostOp} (hin : s.inputs = op :: rest) (hr : s.rst = false)
    (hturn : s.HostTurn) : step s = .next (s.beginStep.transact op rest) := by
  rw [step_of_host ((State.mover_host_iff hin).2 hturn)]
  exact hostStep_transact hin hr

/-- Settles O44: the transaction of the step is a read or a write. -/
theorem readsHaveNoSideEffect : Obligations.ReadsHaveNoSideEffect := by
  intro s op rest hin hr hturn
  refine ⟨rfl, fun addr size hop => ?_, fun addr size v hop => ?_⟩
  · subst hop
    rw [step_transact hin hr hturn, State.transact_read]
    rfl
  · subst hop
    rw [step_transact hin hr hturn, State.transact_write]
    rfl

/-! ### An idle buffer access (20_memory.md R87 to R89) -/

/-- There are at most 16 buffers (00_scope.md R8). -/
theorem Config.Legal.buffer_lt_sixteen {c : Config} (h : c.Legal) {b : Nat} (hb : b < c.nbuf) : b < 16 := by
  obtain ⟨_, _, _, hn, _⟩ := h
  exact lt_of_lt_of_le hb hn

/-- The address of an aligned existing part of a buffer leads there. -/
theorem targetOf_bufAddr {c : Config} {b o : Nat} {size : AccessSize} (hl : c.Legal) (hb : b < c.nbuf)
    (haligned : o % size.bytes = 0) (hend : o + size.bytes ≤ c.bufBytes) :
    targetOf c (BitVec.ofNat 32 (bufAddr b o)) size = .buffer b o := by
  have hcap := Config.Legal.bufBytes_le hl
  have hpos := size.bytes_pos
  have h16 := Config.Legal.buffer_lt_sixteen hl hb
  obtain ⟨address, buffer, offset⟩ := toNat_bufAddr (o := o) h16 (by omega)
  have base : bufAddr b o % size.bytes = 0 := by
    unfold bufAddr
    cases size <;> simp only [AccessSize.bytes] at haligned ⊢ <;> omega
  have window := targetOf_window (c := c) (addr := BitVec.ofNat 32 (bufAddr b o)) (size := size)
  rw [address, buffer, offset] at window
  exact window (by unfold bufAddr; omega) (by unfold bufAddr; omega) base hb hend

/-- The bytes of a write's data, put together again, are the low bytes of the data (20_memory.md R87). -/
theorem wordOfBytes_writtenBytes (size : AccessSize) (v : Word) :
    wordOfBytes (writtenBytes size v) = BitVec.ofNat 32 (v.toNat % 2 ^ (8 * size.bytes)) := by
  have byte : ∀ k, (byteOfWord v k).toNat = v.toNat / 2 ^ (8 * k) % 2 ^ 8 := fun k => by
    rw [byteOfWord, BitVec.extractLsb'_toNat, Nat.shiftRight_eq_div_pow]
  have empty : (wordOfBytes []).toNat = 0 := rfl
  apply BitVec.eq_of_toNat_eq
  rw [BitVec.toNat_ofNat]
  cases size with
  | byte | half | word =>
    simp only [writtenBytes, AccessSize.bytes, List.range_succ, List.range_zero, List.nil_append, List.cons_append,
      List.map_cons, List.map_nil, toNat_wordOfBytes_cons, byte, empty]
    omega

/-- What the Host reads, while idle, where it wrote (20_memory.md R88, R89). -/
theorem State.loadBytes_hostByte (hi : s.phase = .idle) (b o : Nat) (size : AccessSize) (v : Word) {j : Nat}
    (hj : j < size.bytes) : (s.loadBytes b o (writtenBytes size v)).hostByte b (o + j) = byteOfWord v j := by
  have idle : (s.loadBytes b o (writtenBytes size v)).busy = false := by simp [State.busy, hi]
  unfold State.hostByte State.readBuf
  rw [idle, State.loadBytes_byte b o size v hj]
  rfl

/-- VALID[x] after a host write to a buffer (20_memory.md R88). -/
theorem State.loadBytes_isValid {b : Nat} (hb : b < s.cfg.nbuf) (h16 : b < 16) (o : Nat) (bytes : List Byte) (x : Nat) :
    (s.loadBytes b o bytes).isValid x = (s.isValid x || decide (x = b)) := by
  show (decide (x < s.cfg.nbuf) && (s.validWith b).getLsbD x) = _
  rw [validWith_get b x h16]
  unfold State.isValid
  by_cases hx : x = b
  · simp [hx, hb]
  · simp [hx]

/-- Settles O45: the write is loadBytes at the address, and the read finds its bytes. -/
theorem bufferWritesReadBack : Obligations.BufferWritesReadBack := by
  intro s b o size v hl hi hb haligned hend
  have h16 := Config.Legal.buffer_lt_sixteen hl hb
  have target := targetOf_bufAddr hl hb haligned hend
  have write : s.memWrite (BitVec.ofNat 32 (bufAddr b o)) size v = s.loadBytes b o (writtenBytes size v) := by
    unfold State.memWrite
    rw [target]
    exact State.unlessBusy_idle hi _
  have readBack : (s.loadBytes b o (writtenBytes size v)).memRead (BitVec.ofNat 32 (bufAddr b o)) size
      = .data (wordOfBytes (writtenBytes size v)) := by
    unfold State.memRead
    rw [State.loadBytes_cfg, target]
    refine congrArg (fun bytes => Response.data (wordOfBytes bytes)) (List.map_congr_left fun j hj => ?_)
    exact State.loadBytes_hostByte hi b o size v (List.mem_range.1 hj)
  rw [write]
  refine ⟨fun j hj => State.loadBytes_byte b o size v hj, fun x hx => State.loadBytes_outside b o size v hx,
    ?_, fun x hx => ?_, rfl, ?_⟩
  · simp [State.loadBytes_isValid hb h16]
  · simp [State.loadBytes_isValid hb h16, hx]
  · rw [readBack, wordOfBytes_writtenBytes]

end HostTransactions

end Sys2Proof.Machine


/-! The statements of 30_encoding.md: the decoder, the encoder and the opcode table, illegal words, and WAIT. -/

namespace Sys2Proof

section Encoding

variable {w : Word} {i : Instr}

/-! ### The decoder and the encoder (30_encoding.md R121, R125, R126) -/

/-- The command of the same row on the operands of the word `w` (30_encoding.md R121). -/
def Instr.withOperands (w : Word) : Instr → Instr
  | .nop => .nop
  | .mmul _ _ _ => .mmul (dField w).toNat (aField w).toNat (bField w).toNat
  | .det _ => .det (aField w).toNat
  | .invkey _ _ _ => .invkey (dField w).toNat (aField w).toNat (cField w)
  | .genkey _ _ => .genkey (dField w).toNat (cField w)
  | .tilekey _ _ => .tilekey (dField w).toNat (aField w).toNat
  | .rand _ => .rand (dField w).toNat
  | .xor _ _ _ => .xor (dField w).toNat (aField w).toNat (bField w).toNat

theorem Instr.withOperands_wellFormed (w : Word) (i : Instr) : (i.withOperands w).WellFormed = true := by
  have hd : IndexFits (dField w).toNat := (dField w).isLt
  have ha : IndexFits (aField w).toNat := (aField w).isLt
  have hb : IndexFits (bField w).toNat := (bField w).isLt
  cases i with
  | nop => rfl
  | mmul | xor => exact decide_eq_true ⟨hd, ha, hb⟩
  | det => exact decide_eq_true ha
  | invkey | tilekey => exact decide_eq_true ⟨hd, ha⟩
  | genkey | rand => exact decide_eq_true hd

/-- An operand that fits its field is read back from it whole (30_encoding.md R122). -/
theorem decode_encode (h : i.WellFormed = true) : decode (encode i) = .ok i := by
  cases i with
  | nop => decide
  | mmul d a b | xor d a b =>
    obtain ⟨hd, ha, hb⟩ := of_decide_eq_true h
    simp [encode, decode, Nat.mod_eq_of_lt hd, Nat.mod_eq_of_lt ha, Nat.mod_eq_of_lt hb]
  | invkey d a _ | tilekey d a =>
    obtain ⟨hd, ha⟩ := of_decide_eq_true h
    simp [encode, decode, Nat.mod_eq_of_lt hd, Nat.mod_eq_of_lt ha]
  | det b | genkey b _ | rand b =>
    have hb : b < 16 := of_decide_eq_true h
    simp [encode, decode, Nat.mod_eq_of_lt hb]

/-- A word with RSV = 0 is assembled from the values its fields have. -/
theorem assemble_eq {op d a b : Nat} {c : Bool} (hr : rsvField w = 0) (hop : (opField w).toNat = op)
    (hd : (dField w).toNat = d) (ha : (aField w).toNat = a) (hb : (bField w).toNat = b) (hc : cField w = c) :
    assemble op d a b c = w := by
  subst hop hd ha hb hc
  exact assemble_fields hr

/-- What decodes is a command on the word's own operands, and the word is its word. -/
theorem decode_ok (h : decode w = .ok i) : i.withOperands w = i ∧ encode i = w := by
  unfold decode at h
  dsimp only at h
  split at h
  · cases h
  rename_i hr
  replace hr : rsvField w = 0 := not_not.1 hr
  split at h
  case h_9 => cases h
  all_goals
    obtain ⟨hu, rfl⟩ := whenUnused_eq_ok.1 h
    simp only [Bool.and_eq_true, beq_iff_eq, Bool.not_eq_true'] at hu
    refine ⟨rfl, ?_⟩
  case h_1 hop =>
    obtain ⟨⟨⟨hd, ha⟩, hb⟩, hc⟩ := hu
    exact assemble_eq hr hop hd ha hb hc
  case h_2 hop => exact assemble_eq hr hop rfl rfl rfl hu
  case h_3 hop =>
    obtain ⟨⟨hd, hb⟩, hc⟩ := hu
    exact assemble_eq hr hop hd rfl hb hc
  case h_4 hop => exact assemble_eq hr hop rfl rfl hu rfl
  case h_5 hop => exact assemble_eq hr hop rfl hu.1 hu.2 rfl
  case h_6 hop => exact assemble_eq hr hop rfl rfl hu.1 hu.2
  case h_7 hop =>
    obtain ⟨⟨ha, hb⟩, hc⟩ := hu
    exact assemble_eq hr hop rfl ha hb hc
  case h_8 hop => exact assemble_eq hr hop rfl rfl rfl hu

/-- Settles O1: the decoder reads the fields of an assembled word back. -/
theorem decodeInvertsEncode : Obligations.DecodeInvertsEncode := fun _ => decode_encode

/-- Settles O2: the command has the operands of the word. -/
theorem encodeInvertsDecode : Obligations.EncodeInvertsDecode := by
  intro w i h
  obtain ⟨operands, word⟩ := decode_ok h
  exact ⟨operands ▸ i.withOperands_wellFormed w, word⟩

/-! ### The opcode table (30_encoding.md R125, R126) -/

/-- An assembled word, field by field (30_encoding.md R121). -/
theorem eq_assemble_iff {op d a b : Nat} {c : Bool} : w = assemble op d a b c ↔
    rsvField w = 0 ∧ cField w = c ∧ bField w = BitVec.ofNat 4 b ∧ aField w = BitVec.ofNat 4 a ∧
      dField w = BitVec.ofNat 4 d ∧ opField w = BitVec.ofNat 8 op := by
  constructor
  · rintro rfl
    refine ⟨rsvField_assemble .., cField_assemble .., ?_, ?_, ?_, ?_⟩ <;> exact BitVec.eq_of_toNat_eq (by simp)
  · rintro ⟨hr, hc, hb, ha, hd, hop⟩
    have fields := assemble_fields hr
    rw [hc, hb, ha, hd, hop] at fields
    simpa [assemble, -BitVec.toNat_ofNat] using fields.symm

/-- The match word of a row has its OP value and 0 in every other field (30_encoding.md R125). -/
theorem Instr.matchWord_eq (i : Instr) : i.matchWord = assemble (opField i.matchWord).toNat 0 0 0 false := by
  cases i <;> rw [Instr.matchWord] <;> decide

/-- A field that the mask covers is compared whole. -/
theorem and_mask_of_ones {n : Nat} (x : BitVec n) {m : BitVec n} (h : m = BitVec.allOnes n) : x &&& m = x := by
  rw [h, BitVec.and_allOnes]

/-- A word matches a row when it is the word of the row's command on the word's own operands: the mask covers
exactly the fields that are no operands. -/
theorem and_maskWord_iff (w : Word) (i : Instr) :
    w &&& i.maskWord = i.matchWord ↔ encode (i.withOperands w) = w := by
  rw [i.matchWord_eq, eq_assemble_iff, eq_comm (b := w)]
  cases i
  all_goals
    simp only [Instr.withOperands, encode, eq_assemble_iff, BitVec.ofNat_toNat, BitVec.setWidth_eq]
    simp [Instr.maskWord, Instr.matchWord, rsvField, cField, bField, aField, dField, opField, BitVec.extractLsb'_and,
      and_mask_of_ones]

theorem Instr.withOperands_row (w : Word) (i : Instr) :
    (i.withOperands w).matchWord = i.matchWord ∧ (i.withOperands w).maskWord = i.maskWord := by
  cases i <;> exact ⟨rfl, rfl⟩

/-- The table has a row for each command, and no other (30_encoding.md R125). -/
theorem mem_opcodeTable_iff {row : Word × Word} :
    row ∈ opcodeTable ↔ ∃ i : Instr, (i.matchWord, i.maskWord) = row := by
  constructor
  · intro h
    simp only [opcodeTable, List.mem_cons, List.not_mem_nil, or_false] at h
    rcases h with rfl | rfl | rfl | rfl | rfl | rfl | rfl | rfl
    · exact ⟨.nop, rfl⟩
    · exact ⟨.mmul 0 0 0, rfl⟩
    · exact ⟨.det 0, rfl⟩
    · exact ⟨.invkey 0 0 false, rfl⟩
    · exact ⟨.genkey 0 false, rfl⟩
    · exact ⟨.tilekey 0 0, rfl⟩
    · exact ⟨.rand 0, rfl⟩
    · exact ⟨.xor 0 0 0, rfl⟩
  · rintro ⟨i, rfl⟩
    cases i <;> simp [opcodeTable, Instr.matchWord, Instr.maskWord]

/-- What decodes matches the row of its command. -/
theorem matches_of_decode (h : decode w = .ok i) : w &&& i.maskWord = i.matchWord := by
  obtain ⟨operands, word⟩ := decode_ok h
  rw [and_maskWord_iff, operands, word]

/-- A word that matches a row decodes to a command of that row. -/
theorem decode_of_matches {row : Word × Word} (hrow : row ∈ opcodeTable) (h : w &&& row.2 = row.1) :
    ∃ i, decode w = .ok i ∧ (i.matchWord, i.maskWord) = row := by
  obtain ⟨i, rfl⟩ := mem_opcodeTable_iff.1 hrow
  have word : encode (i.withOperands w) = w := (and_maskWord_iff w i).1 h
  obtain ⟨hmatch, hmask⟩ := i.withOperands_row w
  refine ⟨i.withOperands w, ?_, by rw [hmatch, hmask]⟩
  rw [← decode_encode (i.withOperands_wellFormed w), word]

/-- Settles O3: a row is matched exactly when the decoder answers it, so two rows matched are the one answer's. -/
theorem decodeFollowsOpcodeTable : Obligations.DecodeFollowsOpcodeTable := by
  intro w
  refine ⟨fun i h => ⟨matches_of_decode h, mem_opcodeTable_iff.2 ⟨i, rfl⟩⟩, fun row hrow h => ?_, ?_⟩
  · obtain ⟨i, hi, rfl⟩ := decode_of_matches hrow h
    refine ⟨⟨i, hi, rfl⟩, fun row' hrow' h' => ?_⟩
    obtain ⟨j, hj, rfl⟩ := decode_of_matches hrow' h'
    obtain rfl : i = j := Except.ok.inj (hi.symm.trans hj)
    rfl
  · cases hw : decode w with
    | ok i =>
      have row := mem_opcodeTable_iff.2 ⟨i, rfl⟩
      exact iff_of_false (fun unmatched => unmatched _ row (matches_of_decode hw)) (by simp)
    | error e =>
      refine iff_of_true (fun row hrow h => ?_) ⟨e, rfl⟩
      obtain ⟨i, hi, _⟩ := decode_of_matches hrow h
      rw [hw] at hi
      cases hi

/-- Settles O4: the words are literals, and the decoder computes. -/
theorem listedWordsDecode : Obligations.ListedWordsDecode := by
  unfold Obligations.ListedWordsDecode
  decide

end Encoding

end Sys2Proof

namespace Sys2Proof.Machine

section IllegalWordsAndWait

variable {s : State}

/-- Settles O6: the Core's step on a word that does not decode raises ILLEGAL_CMD, which names no tile. -/
theorem illegalWordCompletes : Obligations.IllegalWordCompletes := by
  intro s e hb hd hturn
  rw [step_of_core ((State.mover_core_iff hb).2 hturn), coreStep_of_error (s := s.beginStep) hd,
    State.raiseErr_eq_failedWith (by decide) fun _ => rfl, State.beginStep_core hb hturn]

/-! ### WAIT (30_encoding.md R130) -/

/-- The Host's step on WAIT reads STATUS, and goes on unless it reads BUSY = 1. -/
theorem State.transact_wait (s : State) (rest : List HostOp) :
    s.transact .wait rest = (if s.busy then s else s.withInputs rest).respond (.data s.statusWord) := by
  have status : RegisterAt statusAddr .status := by decide
  rw [← show s.memRead statusAddr .word = .data s.statusWord from status.memRead s]
  rfl

/-- Settles O47: PHASE says what STATUS.BUSY reads as. -/
theorem waitPollsUntilIdle : Obligations.WaitPollsUntilIdle := by
  intro s rest hin hr
  refine ⟨fun hi => ?_, fun hb hturn => ?_⟩
  · have idle : s.beginStep.busy = false := by simp [State.busy, State.beginStep, hi]
    rw [step_transact hin hr (.inl hi), State.transact_wait, idle, State.beginStep_idle hi]
    rfl
  · have busy : s.beginStep.busy = true := by simp [State.busy, State.beginStep, hb]
    rw [step_transact hin hr hturn, State.transact_wait, busy,
      State.beginStep_host hb ((State.mover_host_iff hin).2 hturn)]
    rfl

end IllegalWordsAndWait

end Sys2Proof.Machine


/-! The statements of 40_command_common.md: accept, the Core's step on a command, completion, and NOP. -/

namespace Sys2Proof.Machine

section CommandLifecycle

variable {s u t : State} {i : Instr}

/-! ### From accept to completion (40_command_common.md R160 to R163) -/

/-- Settles O7: the step is the Host's write to CMD, which an idle machine accepts. -/
theorem cmdWriteIsAccepted : Obligations.CmdWriteIsAccepted := by
  intro s v rest hi hr hin
  have cmd : RegisterAt 0x00000010 .cmd := by decide
  have accepts : s.beginStep.writeReg v .cmd = s.beginStep.accept v :=
    State.unlessBusy_idle (s := s.beginStep) hi _
  rw [step_transact hin hr (.inl hi), State.transact_write, cmd.memWriteResponse, cmd.memWrite, accepts,
    State.beginStep_idle hi]
  rfl

/-- Settles O5: the Core's step is the meaning of the latched command, on the machine as the step begins. -/
theorem stepRunsDecodedCommand : Obligations.StepRunsDecodedCommand := by
  intro s i hb hd hturn
  rw [step_of_core ((State.mover_core_iff hb).2 hturn), coreStep_of_ok (s := s.beginStep) hd,
    State.beginStep_core hb hturn]

/-- Only a GENKEY goes on searching: every other ending is a completion (40_command_common.md R162, R163). -/
theorem CommandEnds.completes (h : CommandEnds i s u t) (hi : ∀ d c, i ≠ .genkey d c) :
    t.phase = .idle ∧ t.done = true ∧ t.staged = none ∧ t.gen = none := by
  cases h with
  | fails | succeeds | commits => exact ⟨rfl, rfl, rfl, rfl⟩
  | searches d c g hg => exact absurd hg (hi d c)

/-- Settles O8: no command stops the machine, and only a GENKEY has an ending that is no completion. -/
theorem commandsCompleteInOneStep : Obligations.CommandsCompleteInOneStep := by
  intro i s hi
  obtain ⟨t, he⟩ := exec_next i s
  obtain ⟨w, _, hends⟩ := exec_ends he
  exact ⟨t, he, hends.completes hi⟩

/-! ### The commands without a destination (40_command_common.md R170, R172) -/

/-- Settles O12: NOP is a completion without error, and nothing is staged to commit. -/
theorem nopOnlyCompletes : Obligations.NopOnlyCompletes := by
  intro s hs
  rw [← State.succeed_eq_finished hs]
  exact execNop_eq s

/-- A command without a destination makes no attempt and draws nothing. -/
theorem Work.Allowed.storeless {w : Work} (hw : w.Allowed i s) (hd : destination i = none) :
    w.attempts = s.attempts ∧ w.entropy = s.entropy ∧ w.draws = s.draws := by
  have noGenkey : ¬ ∃ d c, i = .genkey d c := by rintro ⟨d, c, rfl⟩; cases hd
  have noRand : ¬ ∃ d, i = .rand d := by rintro ⟨d, rfl⟩; cases hd
  exact ⟨hw.attempts.resolve_right noGenkey, hw.draws.resolve_right (not_or.2 ⟨noGenkey, noRand⟩)⟩

/-- Settles O28: a command without a destination keeps the buffer file and does no work but a write of RESULT. -/
theorem storelessCommandsFrame : Obligations.StorelessCommandsFrame := by
  intro i s t hs hi he
  obtain ⟨w, hw, hends⟩ := exec_ends he
  have noDest : destination i = none := by rcases hi with rfl | ⟨a, rfl⟩ <;> rfl
  obtain ⟨hmem, hdims, hvalid⟩ := hends.storeless hs noDest
  obtain ⟨hatt, hent, hdraws⟩ := hw.storeless noDest
  have frame := hends.frame
  have hres : t.result = w.result := congrArg State.result frame
  refine ⟨?_, ?_⟩
  · rw [hmem, hdims, hvalid, hatt, hent, hdraws, ← hres] at frame
    exact frame
  · rintro rfl
    exact hres.trans (hw.result.resolve_right (by simp))

end CommandLifecycle

end Sys2Proof.Machine


/-! The statements of 41_invertibility.md: the determinant mod 256, the invertibility test, and DET. -/

namespace Sys2Proof.Machine

section Invertibility

/-! ### The determinant mod 256 (41_invertibility.md R190) -/

/-- The expansion along row 0 is the signed sum over permutations; Mathlib's sum runs over the transpose. -/
theorem detZ_eq_sum_perm (n : Nat) (m : Nat → Nat → Int) :
    detZ n m = ∑ σ : Equiv.Perm (Fin n), (Equiv.Perm.sign σ : Int) * ∏ a : Fin n, m a (σ a) := by
  rw [detZ_eq_det, ← Matrix.det_transpose, Matrix.det_apply']
  rfl

theorem detZ_two (m : Nat → Nat → Int) : detZ 2 m = m 0 0 * m 1 1 - m 0 1 * m 1 0 := by
  rw [detZ_eq_det, Matrix.det_fin_two]
  rfl

theorem toNat_detMod (n : Nat) (m : Mat) : ((detMod n m).toNat : Int) = detZ n m.toZ % 256 :=
  toNat_byteOfInt _

/-- Settles O30: DetMod is the integer determinant reduced; the rule's example is a 2×2 determinant. -/
theorem detModIsSignedPermutationSum : Obligations.DetModIsSignedPermutationSum := by
  refine ⟨fun n m => ?_, fun m h00 h01 h10 h11 => ?_⟩
  · rw [toNat_detMod, detZ_eq_sum_perm]
    rfl
  · have det : detZ 2 m.toZ = -2 := by
      rw [detZ_two]
      simp [Mat.toZ, h00, h01, h10, h11]
    refine ⟨det, ?_⟩
    rw [detMod, det]
    decide

/-! ### The invertibility test (41_invertibility.md R191) -/

theorem invertible_iff_gcd (n : Nat) (m : Mat) :
    invertible n m = true ↔ Nat.gcd (detMod n m).toNat 256 = 1 := beq_iff_eq

/-- 256 is a power of 2, so the only common prime factor there can be is 2. -/
theorem gcd_256_eq_one_iff_odd (d : Nat) : Nat.gcd d 256 = 1 ↔ d % 2 = 1 := by
  calc Nat.gcd d 256 = 1
      ↔ Nat.Coprime d (2 ^ 8) := Iff.rfl
    _ ↔ Nat.Coprime d 2 := Nat.coprime_pow_right_iff (by decide) d 2
    _ ↔ d % 2 = 1 := Nat.coprime_two_right.trans Nat.odd_iff

/-- Reduction mod 256 keeps the parity. -/
theorem detMod_odd_iff (n : Nat) (m : Mat) : (detMod n m).toNat % 2 = 1 ↔ detZ n m.toZ % 2 = 1 := by
  have h := toNat_detMod n m
  omega

/-- Settles O31: gcd 1 with 256 is oddness, and DetMod has the parity of the integer determinant. -/
theorem invertibleExactlyWhenOdd : Obligations.InvertibleExactlyWhenOdd := by
  refine ⟨fun n m => ?_, fun x => (Int.gcd_emod x 256).symm⟩
  have odd : invertible n m = true ↔ (detMod n m).toNat % 2 = 1 :=
    (invertible_iff_gcd n m).trans (gcd_256_eq_one_iff_odd _)
  exact ⟨invertible_iff_gcd n m, odd, odd.trans (detMod_odd_iff n m)⟩

/-! ### DET (41_invertibility.md R194) -/

variable {s : State}

/-- A write of RESULT stages nothing, so the completion after it changes only the lifecycle fields besides. -/
theorem State.writeResult_succeed_eq (h : s.staged = none) (w : Word) :
    (s.writeResult w).succeed = { s.finished with result := w } :=
  State.succeed_eq_finished (s := s.writeResult w) h

/-- DET past its checks, BAD_TILE among them, is a completion that reports the determinant. -/
theorem exec_det_of_tileInRange {a : Nat} (hs : s.staged = none) (hv : s.Validates (.det a))
    (ht : s.TileInRange a) :
    exec (.det a) s
      = .next { s.finished with result := resultWord (isOdd (s.detOfTile a)) (s.detOfTile a) } := by
  rw [← State.writeResult_succeed_eq hs]
  exact (execDet_of_validates hv).trans (if_pos ht)

/-- Settles O13: the word in RESULT is the determinant of tile LTILE with its parity above it. -/
theorem detReportsDeterminant : Obligations.DetReportsDeterminant := by
  intro a s hs hv ht
  refine ⟨_, exec_det_of_tileInRange hs hv ht, rfl, ?_⟩
  exact (toNat_resultWord _ _).trans (by rw [isOdd_toNat, State.detOfTile])

end Invertibility

end Sys2Proof.Machine


/-! The statements of 42_key_tiler.md: GENKEY's search, what it commits and when it ends, and TILEKEY. -/

namespace Sys2Proof.Machine

section KeyTiler

variable {s t : State} {d : Nat} {c : Bool} {g : GenProgress}

/-! ### The search starts (42_key_tiler.md R216) -/

/-- Settles O19: past its checks the first step records the start of the search. -/
theorem genkeyStartsSearch : Obligations.GenkeyStartsSearch := by
  intro d c s hg hv
  exact (execGenkey_start hg).trans (State.validated_of_none ((genkeyChecks_pass d c).2 hv))

/-! ### One attempt of GENKEY, outcome by outcome (42_key_tiler.md R211, R216) -/

/-- The tile of the destination that the sub-keys `keys`, in block order, give at (p, q): its own sub-key with C = 1,
the one sub-key with C = 0. -/
def State.keyTile (s : State) (d : Nat) (c : Bool) (keys : List (List Byte)) (p q : Nat) : Mat :=
  matOfBytes s.n (keys.getD (if c then p * s.tileCols d + q else 0) [])

/-- The sub-keys of a GENKEY whose next attempt succeeds. -/
def State.foundKeys (s : State) (g : GenProgress) : List (List Byte) := g.subkeys ++ [s.attemptBytes]

/-- `s` after an attempt that ends the command, before the completion: the bytes are drawn, ATTEMPTS is the total. -/
def State.afterLastAttempt (s : State) (g : GenProgress) : State :=
  (s.afterDraws (s.n * s.n)).writeAttempts (saturatingSucc g.total)

/-- `s` after a GENKEY has committed its sub-keys. -/
def State.keysCommitted (s : State) (d : Nat) (c : Bool) (g : GenProgress) : State :=
  (s.afterLastAttempt g).commitGrid d (s.dim d)
    (s.genkeyBytes d c (s.foundKeys g))

/-- With progress recorded, the step of a GENKEY is one attempt. -/
theorem exec_genkey_attempt (hg : s.gen = some g) : exec (.genkey d c) s = .next (s.genkeyAttempt d c g) :=
  execGenkey_attempt hg

theorem State.genkeyAttempt_last (hs : s.attemptSucceeds = true) (hk : g.tile + 1 = s.genCount d c) :
    s.genkeyAttempt d c g = s.keysCommitted d c g := by
  unfold State.genkeyAttempt
  rw [if_pos hs, if_pos hk]
  rfl

theorem State.genkeyAttempt_nextTile (hs : s.attemptSucceeds = true) (hk : g.tile + 1 ≠ s.genCount d c) :
    s.genkeyAttempt d c g
      = (s.afterDraws (s.n * s.n)).withGen ⟨g.tile + 1, 0, saturatingSucc g.total, s.foundKeys g⟩ := by
  unfold State.genkeyAttempt
  rw [if_pos hs, if_neg hk]
  rfl

theorem State.genkeyAttempt_exhausted (hs : s.attemptSucceeds = false)
    (hk : s.lmaxatt ≠ 0 ∧ g.attempts + 1 = s.lmaxatt.toNat) :
    s.genkeyAttempt d c g = (s.afterLastAttempt g).raiseErr .genExhausted (s.genTileWord d g) := by
  unfold State.genkeyAttempt
  rw [if_neg (by simp [hs]), if_pos hk]
  rfl

theorem State.genkeyAttempt_sameTile (hs : s.attemptSucceeds = false)
    (hk : ¬ (s.lmaxatt ≠ 0 ∧ g.attempts + 1 = s.lmaxatt.toNat)) :
    s.genkeyAttempt d c g
      = (s.afterDraws (s.n * s.n)).withGen ⟨g.tile, g.attempts + 1, saturatingSucc g.total, g.subkeys⟩ := by
  unfold State.genkeyAttempt
  rw [if_neg (by simp [hs]), if_neg hk]

/-! ### What a GENKEY commits (42_key_tiler.md R216) -/

/-- Only the buffer file, ATTEMPTS, the draws and the lifecycle fields change. -/
theorem State.keysCommitted_finishedFrom (s : State) (d : Nat) (c : Bool) (g : GenProgress) :
    (s.keysCommitted d c g).FinishedFrom s :=
  State.commitGrid_finishedFrom (s := s.afterLastAttempt g) d _ _

@[simp] theorem State.keysCommitted_n (s : State) (d : Nat) (c : Bool) (g : GenProgress) :
    (s.keysCommitted d c g).n = s.n := rfl

@[simp] theorem State.keysCommitted_attempts (s : State) (d : Nat) (c : Bool) (g : GenProgress) :
    (s.keysCommitted d c g).attempts = saturatingSucc g.total := rfl

/-- DIM[D] is kept, and D becomes written. -/
theorem State.keysCommitted_destination (hl : s.cfg.Legal) (hd : d < s.cfg.nbuf) :
    (s.keysCommitted d c g).dim d = s.dim d ∧ (s.keysCommitted d c g).isValid d = true :=
  State.commitGrid_destination (s := s.afterLastAttempt g) hl hd _ _

theorem State.keysCommitted_tiles (hl : s.cfg.Legal) (hd : d < s.cfg.nbuf) :
    (s.keysCommitted d c g).HoldsTiles d (s.keyTile d c (s.foundKeys g)) :=
  State.commitGrid_tiles (s := s.afterLastAttempt g) hl hd (s.dim d) _

/-- The destination has the tiles it had. -/
theorem State.keysCommitted_tileRows_tileCols (hl : s.cfg.Legal) (hd : d < s.cfg.nbuf) :
    (s.keysCommitted d c g).tileRows d = s.tileRows d ∧ (s.keysCommitted d c g).tileCols d = s.tileCols d := by
  have dim : (s.keysCommitted d c g).dim d = s.dim d := (State.keysCommitted_destination hl hd).1
  unfold State.tileRows State.tileCols State.height State.width
  rw [dim, State.keysCommitted_n]
  exact ⟨rfl, rfl⟩

/-- A GENKEY's destination exists. -/
theorem State.Validates.genkey_exists (h : s.Validates (.genkey d c)) : d < s.cfg.nbuf := (h.fits rfl).1

/-- Settles O20: the attempt is the commit of the sub-keys. -/
theorem genkeyCommitsSubkeys : Obligations.GenkeyCommitsSubkeys := by
  intro d c s g hl hv hg hk hs
  obtain ⟨hdim, hvalid⟩ := State.keysCommitted_destination (c := c) (g := g) hl hv.genkey_exists
  refine ⟨s.keysCommitted d c g, ?_, s.keysCommitted_finishedFrom d c g, rfl, ?_, rfl, rfl, hdim, hvalid,
    State.keysCommitted_tiles hl hv.genkey_exists⟩
  · rw [exec_genkey_attempt hg, State.genkeyAttempt_last hs hk]
  · rw [State.keysCommitted_attempts, toNat_saturatingSucc]

/-- Settles O21: the attempt only moves the progress on. -/
theorem genkeySearchGoesOn : Obligations.GenkeySearchGoesOn := by
  intro d c s g hg
  refine ⟨fun hs hk => ?_, fun hs hk => ?_⟩
  · rw [exec_genkey_attempt hg, State.genkeyAttempt_nextTile hs hk]
    exact ⟨_, rfl, rfl, _, rfl, rfl, rfl, toNat_saturatingSucc _, rfl⟩
  · have below : ¬ (s.lmaxatt ≠ 0 ∧ g.attempts + 1 = s.lmaxatt.toNat) := by tauto
    rw [exec_genkey_attempt hg, State.genkeyAttempt_sameTile hs below]
    exact ⟨_, rfl, rfl, _, rfl, rfl, rfl, toNat_saturatingSucc _, rfl⟩

/-! ### Exhaustion (42_key_tiler.md R211, R216) -/

theorem highHalf_lt (w : Word) : highHalf w < 65536 := (w.extractLsb' 16 16).isLt

theorem lowHalf_lt (w : Word) : lowHalf w < 65536 := (w.extractLsb' 0 16).isLt

theorem State.tileRows_lt (s : State) (b : Nat) : s.tileRows b < 65536 :=
  (Nat.div_le_self _ _).trans_lt (highHalf_lt (s.dim b))

theorem State.tileCols_lt (s : State) (b : Nat) : s.tileCols b < 65536 :=
  (Nat.div_le_self _ _).trans_lt (lowHalf_lt (s.dim b))

/-- A GENKEY generates no more sub-keys than its destination has tiles. -/
theorem State.Validates.genCount_le (h : s.Validates (.genkey d c)) :
    s.genCount d c ≤ s.tileRows d * s.tileCols d := by
  obtain ⟨_, hb, _, hg, _⟩ := h
  obtain ⟨hr, hc⟩ := State.tiles_pos hb (hg d (List.mem_singleton.2 rfl))
  unfold State.genCount
  split
  · exact le_rfl
  · exact Nat.mul_pos hr hc

/-- The block coordinates of the tile being generated give its index back, and its column is one of the grid. -/
theorem State.genTileWord_halves (hv : s.Validates (.genkey d c)) (hlt : g.tile < s.genCount d c) :
    highHalf (s.genTileWord d g) = g.tile / s.tileCols d ∧ lowHalf (s.genTileWord d g) = g.tile % s.tileCols d ∧
      g.tile % s.tileCols d < s.tileCols d := by
  have inGrid : g.tile < s.tileRows d * s.tileCols d := hlt.trans_le hv.genCount_le
  have row : g.tile / s.tileCols d < s.tileRows d := Nat.div_lt_of_lt_mul (by rwa [Nat.mul_comm])
  have column : g.tile % s.tileCols d < s.tileCols d :=
    Nat.mod_lt _ (Nat.pos_of_ne_zero fun h0 => by simp [h0] at inGrid)
  exact ⟨highHalf_tileWord (row.trans (s.tileRows_lt d)), lowHalf_tileWord (column.trans (s.tileCols_lt d)), column⟩

/-- Settles O22: the attempt raises GEN_EXHAUSTED at the tile, after ATTEMPTS is written. -/
theorem genkeyExhausts : Obligations.GenkeyExhausts := by
  intro d c s g _ hv hg hlt hm hk hs
  obtain ⟨hrow, hcol, hin⟩ := State.genTileWord_halves hv hlt
  rw [exec_genkey_attempt hg, State.genkeyAttempt_exhausted hs ⟨hm, hk⟩,
    State.raiseErr_eq_failedWith (by decide) fun h => absurd h (by decide)]
  refine ⟨_, rfl, rfl, toNat_saturatingSucc _, ?_, ?_⟩
  · show highHalf (s.genTileWord d g) * s.tileCols d + lowHalf (s.genTileWord d g) = g.tile
    rw [hrow, hcol, Nat.div_add_mod']
  · show lowHalf (s.genTileWord d g) < s.tileCols d
    rw [hcol]
    exact hin

/-! ### TILEKEY (42_key_tiler.md R220) -/

/-- Settles O23: the grid committed has the one tile everywhere. -/
theorem tilekeyRepeatsSubkey : Obligations.TilekeyRepeatsSubkey := by
  intro d a s hl hv
  have hd : d < s.cfg.nbuf := (hv.fits rfl).1
  obtain ⟨hdim, hvalid⟩ := State.commitGrid_destination hl hd (s.dim d) (s.tilekeyBytes d a)
  refine ⟨_, execTilekey_of_validates hv, State.commitGrid_finishedFrom d _ _, ?_, ?_, hdim, hvalid,
    State.commitGrid_tiles hl hd (s.dim d) _⟩ <;> rw [State.commitGrid_eq]

/-! ### The promises about a GENKEY result (42_key_tiler.md R217 to R219) -/

/-- A GENKEY step that completes without error is the attempt that succeeds for the last sub-key. -/
theorem genkey_success (h : exec (.genkey d c) s = .next t) (hb : s.phase = .busy) (hi : t.phase = .idle)
    (he : t.err = .none) :
    ∃ g, s.gen = some g ∧ s.attemptSucceeds = true ∧ g.tile + 1 = s.genCount d c ∧ t = s.keysCommitted d c g := by
  have goesOn : ∀ {u : State} {g' : GenProgress}, u.phase = s.phase → t ≠ u.withGen g' := by
    rintro u g' hu rfl
    have : u.phase = .idle := hi
    rw [hu, hb] at this
    cases this
  rcases execGenkey_cases h with ⟨_, e, hfail, rfl⟩ | ⟨_, _, rfl⟩ | ⟨g, hg, rfl⟩
  · exact absurd he (State.firstError_names hfail).1
  · exact absurd rfl (goesOn rfl)
  rcases s.genkeyAttempt_cases d c g with ⟨hs, hk, ht⟩ | ⟨_, _, ht⟩ | ⟨_, _, ht⟩ | ⟨_, _, ht⟩
  · exact ⟨g, hg, hs, hk, ht⟩
  · exact absurd ht (goesOn rfl)
  · rw [ht] at he
    cases he
  · exact absurd ht (goesOn rfl)

/-- With one key for each sub-key to generate, each tile of the destination is one of the keys. -/
theorem State.keyTile_mem {keys : List (List Byte)} {p q : Nat} (hlen : keys.length = s.genCount d c)
    (hp : p < s.tileRows d) (hq : q < s.tileCols d) : ∃ key ∈ keys, s.keyTile d c keys p q = matOfBytes s.n key := by
  have index : (if c then p * s.tileCols d + q else 0) < keys.length := by
    rw [hlen]
    cases c
    · exact Nat.one_pos
    · calc p * s.tileCols d + q < p * s.tileCols d + s.tileCols d := by omega
        _ = (p + 1) * s.tileCols d := (Nat.succ_mul _ _).symm
        _ ≤ s.tileRows d * s.tileCols d := Nat.mul_le_mul_right _ hp
  refine ⟨_, List.getElem_mem index, ?_⟩
  unfold State.keyTile
  rw [List.getD_eq_getElem _ _ index]

/-- The sub-keys of a GENKEY that ends without error are all invertible, one for each it had to generate
(42_key_tiler.md R210, R216). -/
theorem State.Inv.foundKeys_invertible (h : s.Inv) (hg : s.gen = some g)
    (hs : s.attemptSucceeds = true) (hk : g.tile + 1 = s.genCount d c) :
    (s.foundKeys g).length = s.genCount d c ∧ ∀ key ∈ s.foundKeys g, invertible s.n (matOfBytes s.n key) = true := by
  obtain ⟨_, _, _, _, _, hlen, hkeys, _, _⟩ := h.progress g hg
  refine ⟨by simp [State.foundKeys, hlen, hk], fun key hkey => ?_⟩
  rcases List.mem_append.1 hkey with hkey | hkey
  · exact (hkeys key hkey).2
  · rw [List.mem_singleton.1 hkey]
    exact hs

theorem invertible_iff_odd (n : Nat) (m : Mat) : invertible n m = true ↔ (detMod n m).toNat % 2 = 1 :=
  (invertible_iff_gcd n m).trans (gcd_256_eq_one_iff_odd _)

/-- Settles O36: each tile is one of the sub-keys found. -/
theorem genkeyTilesAreInvertible : Obligations.GenkeyTilesAreInvertible := by
  intro d c s t h hb hd he hi herr p q hp hq
  obtain ⟨g, hg, hs, hk, rfl⟩ := genkey_success he hb hi herr
  have dest := (h.genkey_validates hd hg).genkey_exists
  have tile := (State.keysCommitted_tiles h.config dest p q hp hq).matEq
  obtain ⟨hrows, hcols⟩ := State.keysCommitted_tileRows_tileCols (c := c) (g := g) h.config dest
  obtain ⟨hlen, hkeys⟩ := h.foundKeys_invertible hg hs hk
  obtain ⟨key, hkey, hmat⟩ := State.keyTile_mem hlen (hrows ▸ hp) (hcols ▸ hq)
  rw [detMod_congr tile, hmat, State.keysCommitted_n, ← invertible_iff_odd]
  exact hkeys key hkey

/-- The total of a GENKEY that finds its last sub-key counts an attempt for each, unless it is at its ceiling, which
is more than there are tiles (42_key_tiler.md R218). -/
theorem State.Inv.genCount_le_total (h : s.Inv) (hd : decode s.lcmd = .ok (.genkey d c)) (hg : s.gen = some g)
    (hk : g.tile + 1 = s.genCount d c) : s.genCount d c ≤ (saturatingSucc g.total).toNat := by
  obtain ⟨_, _, _, _, _, _, _, _, htotal⟩ := h.progress g hg
  rcases saturatingSucc_bound htotal with hle | hmax
  · omega
  · calc s.genCount d c ≤ s.tileRows d * s.tileCols d := (h.genkey_validates hd hg).genCount_le
      _ ≤ 65535 * 65535 := Nat.mul_le_mul (Nat.le_of_lt_succ (s.tileRows_lt d)) (Nat.le_of_lt_succ (s.tileCols_lt d))
      _ ≤ (saturatingSucc g.total).toNat := by rw [hmax]; decide

/-- Settles O37: with C = 0 every tile is the one sub-key, and the total bounds the number of sub-keys. -/
theorem genkeyTilingAndAttempts : Obligations.GenkeyTilingAndAttempts := by
  intro d c s t h hb hd he hi herr
  obtain ⟨g, hg, hs, hk, rfl⟩ := genkey_success he hb hi herr
  have dest := (h.genkey_validates hd hg).genkey_exists
  have total := h.genCount_le_total hd hg hk
  rw [State.keysCommitted_attempts]
  refine ⟨?_, ?_⟩
  · rintro rfl
    refine ⟨total, fun p q hp hq i j hi hj => ?_⟩
    have tiles := State.keysCommitted_tiles (c := false) (g := g) h.config dest
    rw [(tiles p q hp hq).matEq i j hi hj, (tiles 0 0 (by omega) (by omega)).matEq i j hi hj]
    rfl
  · rintro rfl
    obtain ⟨hrows, hcols⟩ := State.keysCommitted_tileRows_tileCols (c := true) (g := g) h.config dest
    rw [hrows, hcols]
    exact total

/-! ### A running search, step by step (42_key_tiler.md R211, R212, 70_reset_and_hazards.md R370) -/

/-- While a search runs PHASE = BUSY, and no completion or reset has come. -/
theorem State.Inv.searching (h : s.Inv) (hg : s.gen = some g) : s.phase = .busy ∧ s.done = false ∧ s.rst = false := by
  obtain ⟨_, hbusy, hidle, _⟩ := h.lifecycle
  cases hp : s.phase with
  | idle => exact absurd ((hidle hp).symm.trans hg) nofun
  | busy =>
    obtain ⟨hdone, _, hrst⟩ := hbusy hp
    exact ⟨rfl, hdone, hrst⟩

/-- The Core's step of a running search is one attempt. -/
theorem step_attempt (hb : s.phase = .busy) (hd : decode s.lcmd = .ok (.genkey d c)) (hg : s.gen = some g)
    (hturn : s.CoreTurn) : step s = .next (s.beginStep.genkeyAttempt d c g) := by
  rw [step_of_core ((State.mover_core_iff hb).2 hturn), coreStep_of_ok (s := s.beginStep) hd]
  exact exec_genkey_attempt (s := s.beginStep) hg

/-- The zero matrix is not invertible. -/
theorem invertible_zero {n : Nat} (hn : n ≠ 0) : invertible n (fun _ _ => 0) = false := by
  obtain ⟨m, rfl⟩ := Nat.exists_eq_succ_of_ne_zero hn
  have det : detMod (m + 1) (fun _ _ => 0) = 0 := by simp [detMod, detZ, Mat.toZ, byteOfInt]
  unfold invertible
  rw [det]
  rfl

/-- With zero draws no attempt succeeds (42_key_tiler.md R212). -/
theorem State.zeroDraw_attemptSucceeds (hz : s.lzero = true) (hn : s.n ≠ 0) : s.attemptSucceeds = false := by
  have zeros : s.attemptBytes = List.replicate (s.n * s.n) 0 := ((drawsComeInOrder s (s.n * s.n)).1 hz).1
  have zero : matOfBytes s.n s.attemptBytes = fun _ _ => 0 := by
    funext i j
    unfold matOfBytes
    rw [zeros, List.getD_eq_getElem?_getD, List.getElem?_getD_replicate_default_eq]
  unfold State.attemptSucceeds
  rw [zero]
  exact invertible_zero hn

/-- Settles O38: each step is an attempt that fails below no ceiling, and leaves such a search again. -/
theorem zeroDrawSearchNeverEnds : Obligations.ZeroDrawSearchNeverEnds := by
  intro s g k
  induction k generalizing s g with
  | zero =>
    intro h hg _ _ _
    obtain ⟨hbusy, hdone, _⟩ := h.searching hg
    exact ⟨s, run_zero s, hbusy, hdone, rfl⟩
  | succ k ih =>
    intro h hg hin hz hm
    obtain ⟨d, c, hd, ⟨_, ⟨hn, _⟩, _⟩, _⟩ := h.progress g hg
    have hstep := step_attempt (h.searching hg).1 hd hg (.inl hin)
    rw [State.genkeyAttempt_sameTile (s := s.beginStep) (State.zeroDraw_attemptSucceeds (s := s.beginStep) hz hn)
      fun hk => hk.1 hm] at hstep
    rw [run_succ hstep]
    exact ih _ _ (stepsKeepInvariant s _ h hstep) rfl hin hz hm

/-- From progress `g` the next `N` attempts end the search: the ceiling allows no more for the sub-keys still missing,
or `N` attempts draw a success for each of them. -/
def State.EndsWithin (s : State) (d : Nat) (c : Bool) (g : GenProgress) (N : Nat) : Prop :=
  (s.lmaxatt ≠ 0 ∧ (s.genCount d c - g.tile) * s.lmaxatt.toNat ≤ N + g.attempts) ∨
  s.genCount d c ≤ g.tile + s.successesIn N

section EndsWithin

variable {N : Nat} {total : Word} {keys : List (List Byte)}

/-- A search that is not over has an attempt to make. -/
theorem State.EndsWithin.pos (h : s.EndsWithin d c g N) (hlt : g.tile < s.genCount d c)
    (hmax : s.lmaxatt ≠ 0 → g.attempts < s.lmaxatt.toNat) : 0 < N := by
  rcases h with ⟨hm, hle⟩ | hle
  · have one : s.lmaxatt.toNat ≤ (s.genCount d c - g.tile) * s.lmaxatt.toNat :=
      Nat.le_mul_of_pos_left _ (Nat.sub_pos_of_lt hlt)
    have := hmax hm
    omega
  · refine Nat.pos_of_ne_zero ?_
    rintro rfl
    have none : s.successesIn 0 = 0 := rfl
    omega

theorem State.EndsWithin.nextTile (h : s.EndsWithin d c g (N + 1)) (hs : s.attemptSucceeds = true)
    (hmax : s.lmaxatt ≠ 0 → g.attempts < s.lmaxatt.toNat) :
    (s.afterDraws (s.n * s.n)).EndsWithin d c ⟨g.tile + 1, 0, total, keys⟩ N := by
  rcases h with ⟨hm, hle⟩ | hle
  · refine .inl ⟨hm, ?_⟩
    show (s.genCount d c - (g.tile + 1)) * s.lmaxatt.toNat ≤ N
    have := hmax hm
    rw [Nat.sub_add_eq, Nat.sub_one_mul]
    omega
  · refine .inr ?_
    show s.genCount d c ≤ g.tile + 1 + _
    rw [State.successesIn_succ, if_pos hs] at hle
    omega

theorem State.EndsWithin.sameTile (h : s.EndsWithin d c g (N + 1)) (hs : s.attemptSucceeds = false) :
    (s.afterDraws (s.n * s.n)).EndsWithin d c ⟨g.tile, g.attempts + 1, total, keys⟩ N := by
  rcases h with ⟨hm, hle⟩ | hle
  · refine .inl ⟨hm, ?_⟩
    show (s.genCount d c - g.tile) * s.lmaxatt.toNat ≤ N + (g.attempts + 1)
    omega
  · rw [State.successesIn_succ, if_neg (by simp [hs])] at hle
    exact .inr hle

end EndsWithin

/-- `s` runs a GENKEY that ends with its N-th attempt from here on at the latest. -/
structure State.SearchWithin (s : State) (d : Nat) (c : Bool) (N : Nat) : Prop where
  inv : s.Inv
  command : decode s.lcmd = .ok (.genkey d c)
  bounded : ∃ g, s.gen = some g ∧ s.EndsWithin d c g N

/-- A search under the ceiling `m` has completed: without error, or at the ceiling (42_key_tiler.md R211). -/
def State.SearchCompleted (t : State) (m : Word) : Prop :=
  t.phase = .idle ∧ t.done = true ∧ (t.err = .none ∨ (t.err = .genExhausted ∧ m ≠ 0))

/-- A Host step while busy ends the command or keeps it. -/
theorem hostStep_idle_or_keepsCommand (hb : s.phase = .busy) (h : hostStep s = .next t) :
    t.phase = .idle ∨ t.KeepsCommand s := by
  rcases hostStep_busy_cases hb h with ⟨v, rest, _, hv, rfl⟩ | ⟨hidle, _⟩ | hkeep
  · refine .inl ?_
    show (s.memWrite 0x00000008 .word v).phase = .idle
    rw [RegisterAt.memWrite (r := .ctrl) (by decide)]
    exact congrArg State.phase (if_pos hv)
  · exact .inl hidle
  · exact .inr hkeep

section Search

variable {N : Nat}

theorem State.SearchWithin.busy (h : s.SearchWithin d c N) : s.phase = .busy := by
  obtain ⟨g, hg, _⟩ := h.bounded
  exact (h.inv.searching hg).1

theorem State.SearchWithin.beginStep (h : s.SearchWithin d c N) : s.beginStep.SearchWithin d c N :=
  ⟨h.inv.beginStep, h.command, h.bounded⟩

/-- What a Host step may change does not concern the search. -/
theorem State.SearchWithin.of_keepsCommand (h : s.SearchWithin d c N) (inv : t.Inv) (hkeep : t.KeepsCommand s) :
    t.SearchWithin d c N := by
  refine ⟨inv, ?_, ?_⟩ <;> rw [show t = _ from hkeep]
  · exact h.command
  · exact h.bounded

/-- A step of the Core completes the search, or one attempt less is left. -/
theorem State.SearchWithin.coreTurn (h : s.SearchWithin d c N) (hturn : s.CoreTurn) :
    ∃ t, step s = .next t ∧ (t.SearchCompleted s.lmaxatt ∨
      ∃ M, M < N ∧ t.SearchWithin d c M ∧ t.lmaxatt = s.lmaxatt ∧ t.inputs = s.inputs) := by
  obtain ⟨g, hg, hends⟩ := h.bounded
  obtain ⟨d', c', hd', _, hlt, _, _, hmax, _⟩ := h.inv.progress g hg
  obtain ⟨rfl, rfl⟩ := Instr.genkey.inj (Except.ok.inj (hd'.symm.trans h.command))
  obtain ⟨M, rfl⟩ := Nat.exists_eq_succ_of_ne_zero (hends.pos hlt hmax).ne'
  have hstep := step_attempt h.busy h.command hg hturn
  refine ⟨_, hstep, ?_⟩
  have inv := stepsKeepInvariant s _ h.inv hstep
  rcases s.beginStep.genkeyAttempt_cases d' c' g with ⟨_, _, ht⟩ | ⟨hs, _, ht⟩ | ⟨_, ⟨hm, _⟩, ht⟩ | ⟨hs, _, ht⟩ <;>
    rw [ht] at inv ⊢
  · exact .inl ⟨rfl, rfl, .inl rfl⟩
  · exact .inr ⟨M, M.lt_succ_self,
      ⟨inv, h.command, _, rfl, State.EndsWithin.nextTile (s := s.beginStep) hends hs hmax⟩, rfl, rfl⟩
  · exact .inl ⟨rfl, rfl, .inr ⟨rfl, hm⟩⟩
  · exact .inr ⟨M, M.lt_succ_self,
      ⟨inv, h.command, _, rfl, State.EndsWithin.sameTile (s := s.beginStep) hends hs⟩, rfl, rfl⟩

/-- A step of the Host ends the search, or keeps it and brings the Core's step nearer. -/
theorem State.SearchWithin.hostTurn (h : s.SearchWithin d c N) (hm : s.mover = some .host) :
    ∃ t, step s = .next t ∧ (t.phase = .idle ∨ (t.SearchWithin d c N ∧ t.waitBound < s.waitBound)) := by
  obtain ⟨g, hg, _⟩ := h.bounded
  obtain ⟨hb, _, hr⟩ := h.inv.searching hg
  obtain ⟨op, rest, hin⟩ := List.exists_cons_of_ne_nil (State.mover_host hm)
  obtain ⟨t, hhost⟩ : ∃ t, hostStep s.beginStep = .next t := ⟨_, hostStep_transact (s := s.beginStep) hin hr⟩
  have hstep := (step_of_host hm).trans hhost
  refine ⟨t, hstep, ?_⟩
  rcases hostStep_idle_or_keepsCommand (s := s.beginStep) hb hhost with hidle | hkeep
  · exact .inl hidle
  · obtain ⟨hturns, hpatience, _⟩ := hostStep_turns hhost
    refine .inr ⟨h.beginStep.of_keepsCommand (h.inv.beginStep.hostStep hhost) hkeep, ?_⟩
    have nearer := State.waitBound_beginStep hb hm
    unfold State.waitBound at nearer ⊢
    rw [hturns, hpatience]
    omega

/-- A bounded search comes to an end, whatever the Host does; with the Host silent it completes. Each step leaves fewer
attempts, or the Core's next step nearer. -/
theorem State.SearchWithin.ends {s : State} {N : Nat} (h : s.SearchWithin d c N) :
    ∃ k, ∃ t : State, Host.Core.run core k s = .next t ∧ t.phase = .idle ∧
      (s.inputs = [] → t.SearchCompleted s.lmaxatt) := by
  rcases State.turn_cases h.busy with hturn | ⟨⟨op, rest, hin⟩, hm⟩
  · obtain ⟨t, hstep, hdone | ⟨M, hlt, ht, hmax, hinputs⟩⟩ := h.coreTurn hturn
    · exact ⟨1, t, run_succ hstep, hdone.1, fun _ => hdone⟩
    · obtain ⟨k, u, hrun, hidle, hsilent⟩ := ht.ends
      rw [hmax, hinputs] at hsilent
      exact ⟨k + 1, u, (run_succ hstep).trans hrun, hidle, hsilent⟩
  · have busyHost : s.inputs ≠ [] := by simp [hin]
    obtain ⟨t, hstep, hidle | ⟨ht, hlt⟩⟩ := h.hostTurn hm
    · exact ⟨1, t, run_succ hstep, hidle, fun hnone => absurd hnone busyHost⟩
    · obtain ⟨k, u, hrun, hidle, _⟩ := ht.ends
      exact ⟨k + 1, u, (run_succ hstep).trans hrun, hidle, fun hnone => absurd hnone busyHost⟩
termination_by (N, s.waitBound)

end Search

/-- Settles O39: a ceiling or enough successes bound the attempts left, and a bounded search ends. -/
theorem boundedSearchEnds : Obligations.BoundedSearchEnds := by
  intro d c s g h hd hg hbound
  have within : ∃ N, s.EndsWithin d c g N := by
    rcases hbound with hm | ⟨k, hk⟩
    · exact ⟨_, .inl ⟨hm, Nat.le_add_right _ _⟩⟩
    · exact ⟨k, .inr hk⟩
  obtain ⟨N, hN⟩ := within
  obtain ⟨k, t, hrun, hidle, hsilent⟩ := State.SearchWithin.ends ⟨h, hd, g, hg, hN⟩
  exact ⟨⟨k, t, hrun, hidle⟩, fun hin => ⟨k, t, hrun, hsilent hin⟩⟩

end KeyTiler

end Sys2Proof.Machine


/-! The statements of 43_block_multiply.md: MMUL, the exact sum it reduces, and the round trip of the matrix layer. -/

namespace Sys2Proof.Machine

section BlockMultiply

/-! ### The product is an exact sum, reduced once (43_block_multiply.md R240) -/

/-- Each of the n terms is a product of two bytes. -/
theorem sum_byteProducts_le (n : Nat) (f g : Nat → Byte) :
    (∑ j ∈ Finset.range n, (f j).toNat * (g j).toNat) ≤ n * 65025 := by
  have term : ∀ j ∈ Finset.range n, (f j).toNat * (g j).toNat ≤ 65025 := fun j _ =>
    Nat.mul_le_mul (Nat.le_of_lt_succ (f j).isLt) (Nat.le_of_lt_succ (g j).isLt)
  simpa using Finset.sum_le_card_nsmul _ _ _ term

/-- Settles O32: an accumulator of 8 bits or more wraps at a multiple of 256, which the last reduction does not see. -/
theorem productIsExactSumReduced : Obligations.ProductIsExactSumReduced := by
  intro n k x y a c
  refine ⟨toNat_mulMod n x y a c, sum_byteProducts_le n (x a) fun j => y j c, fun hn => ?_, fun hk => ?_⟩
  · exact ⟨by omega, by decide⟩
  · have wraps : 256 ∣ 2 ^ k := Nat.pow_dvd_pow 2 hk
    rw [toNat_mulMod, Nat.mod_mod_of_dvd _ wraps]

/-! ### MMUL (43_block_multiply.md R241) -/

/-- Settles O14: the grid committed has the channel's dimensions, and the products as its tiles. -/
theorem mmulStoresProducts : Obligations.MmulStoresProducts := by
  intro d a b s hl hv
  have hd : d < s.cfg.nbuf := (hv.fits rfl).1
  obtain ⟨hdim, hvalid⟩ := State.commitGrid_destination hl hd (s.dim b) (s.mmulBytes a b)
  exact ⟨_, execMmul_of_validates hv, State.commitGrid_finishedFrom d _ _, rfl, rfl, hdim, hvalid,
    State.commitGrid_tiles hl hd (s.dim b) _⟩

/-! ### The round trip of the matrix layer (43_block_multiply.md R244) -/

/-- The byte inverse of an odd byte, over ℤ/256. -/
theorem cast_byteInverse_mul {x : Byte} (h : x.toNat % 2 = 1) :
    ((byteInverse x).toNat : ZMod 256) * (x.toNat : ZMod 256) = 1 := by
  have inverse : ((x.toNat * (byteInverse x).toNat : Nat) : ZMod 256) = (1 : Nat) :=
    (ZMod.natCast_eq_natCast_iff' _ _ 256).2 (byteInverse_mul x h)
  rwa [Nat.cast_mul, mul_comm, Nat.cast_one] at inverse

/-- InvMod is the byte inverse of DetMod times the adjugate, over ℤ/256 (45_inverter.md R281). -/
theorem residues_invMod {n : Nat} (hn : 1 ≤ n) (m : Mat) :
    residues n (invMod n m) = ((byteInverse (detMod n m)).toNat : ZMod 256) • (residues n m).adjugate := by
  obtain ⟨k, rfl⟩ := Nat.exists_eq_add_of_le' hn
  ext a c
  show ((byteOfInt _).toNat : ZMod 256) = _ * _
  rw [cast_byteOfInt, Int.cast_mul, Int.cast_natCast, cast_adjugate]

/-- InvMod is a left inverse over ℤ/256: the adjugate times the matrix is its determinant, which the byte inverse
cancels. -/
theorem residues_invMod_mul {n : Nat} {m : Mat} (hn : 1 ≤ n) (hodd : (detMod n m).toNat % 2 = 1) :
    residues n (invMod n m) * residues n m = 1 := by
  rw [residues_invMod hn, smul_mul_assoc, Matrix.adjugate_mul, smul_smul, ← cast_detMod,
    cast_byteInverse_mul hodd, one_smul]

/-- Settles O35: the product is associative over ℤ/256, and the inverse cancels the key. -/
theorem inverseUndoesProduct : Obligations.InverseUndoesProduct := by
  intro n k x hn hodd
  rw [← residues_eq_iff]
  calc residues n (mulMod n (invMod n k) (mulMod n k x))
      = residues n (invMod n k) * (residues n k * residues n x) := by rw [residues_mulMod, residues_mulMod]
    _ = residues n (invMod n k) * residues n k * residues n x := (Matrix.mul_assoc _ _ _).symm
    _ = residues n x := by rw [residues_invMod_mul hn hodd, Matrix.one_mul]

end BlockMultiply

end Sys2Proof.Machine


/-! The statements of 44_mask.md: RAND, XOR, and the round trip of the mask layer. -/

namespace Sys2Proof.Machine

section MaskLayer

variable {s t : State} {d a b o : Nat}

/-! ### A grid byte by byte (10_state.md R46, 40_command_common.md R164) -/

/-- The byte at an offset is the pixel in its row and column (10_state.md R46). -/
theorem State.pix_div_mod (s : State) (b o : Nat) : s.pix b (o / s.width b) (o % s.width b) = s.readBuf b o := by
  unfold State.pix
  rw [Nat.div_add_mod']

/-- A pixel is an entry of the tile it lies in (40_command_common.md R164). -/
theorem State.tile_div_mod (s : State) (b r c : Nat) :
    s.tile b (r / s.n) (c / s.n) (r % s.n) (c % s.n) = s.pix b r c := by
  unfold State.tile
  rw [Nat.div_add_mod', Nat.div_add_mod']

/-- A byte that has been written reads as what is stored (10_state.md R56). -/
theorem State.readBuf_of_read {v : Byte} (h : s.mem.read (bufAddr b o) = some v) : s.readBuf b o = v := by
  unfold State.readBuf
  rw [h]

/-- Committing a grid that fits its buffer keeps every byte of the other buffers (20_memory.md R81). -/
theorem State.commitGrid_read_other (hl : s.cfg.Legal) (dim : Word) {bytes : List Byte}
    (hlen : bytes.length ≤ s.cfg.bufBytes) (hb : b ≠ d) (ho : o < s.cfg.bufBytes) :
    (s.commitGrid d dim bytes).mem.read (bufAddr b o) = s.mem.read (bufAddr b o) := by
  have stride : s.cfg.bufBytes ≤ 0x00100000 := Config.Legal.bufBytes_le hl
  exact State.commitGrid_outside d dim bytes fun o' ho' heq => hb (bufAddr_inj (by omega) (by omega) heq).1

/-! ### RAND (44_mask.md R260, R261) -/

/-- Settles O24: the draws are committed as the grid, under the descriptor it has. -/
theorem randStoresDraws : Obligations.RandStoresDraws := by
  intro d s hl hv
  have hd : d < s.cfg.nbuf := (hv.fits rfl).1
  obtain ⟨hdim, hvalid⟩ := State.commitGrid_destination (s := s.afterDraws (s.width d * s.height d)) hl hd
    (s.dim d) (s.drawBytes (s.width d * s.height d))
  exact ⟨_, execRand_of_validates hv, State.commitGrid_finishedFrom (s := s.afterDraws _) d _ _, rfl, rfl, rfl, rfl,
    hdim, hvalid, fun o ho => State.commitGrid_byte d _ _ (by rwa [State.length_drawBytes])⟩

/-! ### XOR (44_mask.md R262, R263) -/

/-- The sources of a validated XOR have the same dimensions (40_command_common.md R169). -/
theorem State.Validates.xor_sameDims (h : s.Validates (.xor d a b)) : s.SameDims a b := by
  obtain ⟨_, _, _, _, same⟩ := h
  exact same

/-- With equal widths, a byte at the same offset of both sources lies at the same place of the same tile. -/
theorem State.xorBytes_getElem? (hw : s.width a = s.width b) (ho : o < s.width a * s.height a) :
    (s.xorBytes a b)[o]? = some (s.readBuf a o ^^^ s.readBuf b o) := by
  unfold State.xorBytes
  rw [gridBytes_getElem? _ ho]
  unfold xorTile
  rw [State.tile_div_mod, State.tile_div_mod, State.pix_div_mod, hw, State.pix_div_mod]

/-- What XOR commits, byte by byte. -/
theorem State.Validates.xor_byte (h : s.Validates (.xor d a b)) (ho : o < s.width a * s.height a) :
    (s.commitGrid d (s.dim a) (s.xorBytes a b)).mem.read (bufAddr d o) = some (s.readBuf a o ^^^ s.readBuf b o) := by
  have stored : o < (s.xorBytes a b).length := ho.trans_eq (length_gridBytes _ _ _ _).symm
  rw [State.commitGrid_byte d (s.dim a) _ stored, State.xorBytes_getElem? h.xor_sameDims.1 ho]

/-- Settles O15: the grid committed has the first source's dimensions, and the exclusive ors as its bytes and tiles. -/
theorem xorStoresBytewise : Obligations.XorStoresBytewise := by
  intro d a b s hl hv
  have hd : d < s.cfg.nbuf := (hv.fits rfl).1
  obtain ⟨hdim, hvalid⟩ := State.commitGrid_destination hl hd (s.dim a) (s.xorBytes a b)
  exact ⟨_, execXor_of_validates hv, State.commitGrid_finishedFrom d _ _, rfl, rfl, hdim, hvalid,
    fun o ho => hv.xor_byte ho, State.commitGrid_tiles hl hd (s.dim a) _⟩

/-! ### The round trip of the mask layer (44_mask.md R264) -/

/-- An XOR that completes without error has passed validation and commits its grid. -/
theorem exec_xor_success (h : exec (.xor d a b) s = .next t) (he : t.err = .none) :
    s.Validates (.xor d a b) ∧ t = s.commitGrid d (s.dim a) (s.xorBytes a b) := by
  rcases execXor_cases h with ⟨e, hfail, rfl⟩ | ⟨hpass, ht⟩
  · exact absurd he (State.firstError_names hfail).1
  · exact ⟨(xorChecks_pass d a b).1 hpass, ht⟩

/-- Settles O41: the first XOR leaves the mask as it is and gives the masked channel the mask's dimensions, so the
second cancels the mask at every offset. -/
theorem maskTwiceIsIdentity : Obligations.MaskTwiceIsIdentity := by
  intro t' m x u s s1 s2 hl hwritten hne h1 e1 h2 e2 o ho
  obtain ⟨hv1, rfl⟩ := exec_xor_success h1 e1
  obtain ⟨hv2, rfl⟩ := exec_xor_success h2 e2
  obtain ⟨hw, hh⟩ := hv1.xor_sameDims
  obtain ⟨-, fits⟩ := hv1.fits rfl
  have inMask : o < s.width m * s.height m := by rwa [hw, hh]
  obtain ⟨v, hv⟩ := Option.isSome_iff_exists.1 (hwritten o inMask)
  have maskBefore : s.readBuf m o = v := State.readBuf_of_read hv
  have masked := State.readBuf_of_read (hv1.xor_byte inMask)
  have keptByte := State.commitGrid_read_other hl (s.dim m) (bytes := s.xorBytes m x)
    ((length_gridBytes _ _ _ _).trans_le fits) hne.symm (inMask.trans_le fits)
  have maskAfter : (s.commitGrid t' (s.dim m) (s.xorBytes m x)).readBuf m o = v :=
    State.readBuf_of_read (keptByte.trans hv)
  have keptDim := (State.commitGrid_other (s := s) (s.dim m) (s.xorBytes m x) hne.symm).1
  rw [hv2.xor_byte (by unfold State.width State.height; rwa [keptDim]), maskAfter, masked, maskBefore,
    ← BitVec.xor_assoc, BitVec.xor_self, BitVec.zero_xor]

end MaskLayer

end Sys2Proof.Machine


/-! The statements of 45_inverter.md: the byte inverse, the inverse of a matrix mod 256, and INVKEY. -/

namespace Sys2Proof.Machine

section ByteInverse

/-! ### The byte inverse (45_inverter.md R281, R282) -/

/-- Two bytes are equal when they are equal over ℤ/256. -/
theorem byte_eq_of_cast {x y : Byte} (h : (x.toNat : ZMod 256) = (y.toNat : ZMod 256)) : x = y := by
  have mod := (ZMod.natCast_eq_natCast_iff' _ _ 256).1 h
  rw [Nat.mod_eq_of_lt x.isLt, Nat.mod_eq_of_lt y.isLt] at mod
  exact BitVec.eq_of_toNat_eq mod

/-- Settles O33: a right inverse over ℤ/256 is the left inverse that the byte inverse is. -/
theorem oddBytesHaveOneInverse : Obligations.OddBytesHaveOneInverse := by
  intro d x hodd
  constructor
  · intro h
    have right : (d.toNat : ZMod 256) * (x.toNat : ZMod 256) = 1 := by
      rw [← Nat.cast_mul, ← Nat.cast_one]
      exact (ZMod.natCast_eq_natCast_iff' _ _ 256).2 h
    exact byte_eq_of_cast (left_inv_eq_right_inv (cast_byteInverse_mul hodd) right).symm
  · rintro rfl
    exact byteInverse_mul d hodd

end ByteInverse

section MatrixInverse

variable {n : Nat} {x y m : Mat}

/-! ### The inverse of a matrix (45_inverter.md R280) -/

/-- A product is the identity when it is so over ℤ/256. -/
theorem mulMod_eq_identity_iff : MatEq n (mulMod n x y) identityMat ↔ residues n x * residues n y = 1 := by
  rw [← residues_eq_iff, residues_mulMod, residues_identityMat]

theorem invMod_mul (hn : 1 ≤ n) (hodd : (detMod n m).toNat % 2 = 1) :
    MatEq n (mulMod n (invMod n m) m) identityMat :=
  mulMod_eq_identity_iff.2 (residues_invMod_mul hn hodd)

/-- Over a commutative ring a left inverse of a square matrix is a right inverse too. -/
theorem mul_invMod (hn : 1 ≤ n) (hodd : (detMod n m).toNat % 2 = 1) :
    MatEq n (mulMod n m (invMod n m)) identityMat :=
  mulMod_eq_identity_iff.2 (mul_eq_one_comm.1 (residues_invMod_mul hn hodd))

theorem eq_invMod_of_mul (hn : 1 ≤ n) (hodd : (detMod n m).toNat % 2 = 1)
    (h : MatEq n (mulMod n m y) identityMat) : MatEq n y (invMod n m) :=
  (residues_eq_iff n y _).1
    (left_inv_eq_right_inv (residues_invMod_mul hn hodd) (mulMod_eq_identity_iff.1 h)).symm

/-- The determinant of a matrix with an inverse is a unit of ℤ/256, and those are the odd residues. -/
theorem detMod_odd_of_mul (h : MatEq n (mulMod n m y) identityMat) : (detMod n m).toNat % 2 = 1 := by
  have unit : IsUnit (((detMod n m).toNat : Nat) : ZMod 256) := by
    rw [cast_detMod]
    exact Matrix.isUnit_det_of_right_inverse (mulMod_eq_identity_iff.1 h)
  exact (gcd_256_eq_one_iff_odd _).1 ((ZMod.isUnit_iff_coprime _ _).1 unit)

/-- Settles O34: over ℤ/256 the adjugate gives the inverse of a matrix whose determinant is a unit. -/
theorem inverseIsUniqueAndTwoSided : Obligations.InverseIsUniqueAndTwoSided := by
  intro n m hn
  exact ⟨fun hodd => ⟨mul_invMod hn hodd, invMod_mul hn hodd, fun _ => eq_invMod_of_mul hn hodd⟩,
    fun ⟨_, hy⟩ => detMod_odd_of_mul hy⟩

end MatrixInverse

section Inverter

variable {s t : State} {d a p q : Nat} {c : Bool}

/-! ### The tiles INVKEY examines (45_inverter.md R284) -/

/-- Tile `x` comes before tile `y` in block order (40_command_common.md R165). -/
def EarlierTile (x y : Nat × Nat) : Prop := x.1 < y.1 ∨ (x.1 = y.1 ∧ x.2 < y.2)

theorem blockOrder_pairwise (rows cols : Nat) : (blockOrder rows cols).Pairwise EarlierTile := by
  refine List.pairwise_flatMap.2 ⟨fun p _ => ?_, List.pairwise_lt_range.imp fun hp x hx y hy => ?_⟩
  · exact List.pairwise_map.2 (List.pairwise_lt_range.imp fun hq => .inr ⟨rfl, hq⟩)
  · obtain ⟨q, _, rfl⟩ := List.mem_map.1 hx
    obtain ⟨q', _, rfl⟩ := List.mem_map.1 hy
    exact .inl hp

theorem State.invkeyTiles_pairwise (s : State) (a : Nat) (c : Bool) : (s.invkeyTiles a c).Pairwise EarlierTile := by
  cases c
  · exact List.pairwise_singleton _ _
  · exact blockOrder_pairwise _ _

/-- INVKEY examines tiles of its grid: all of them, or tile (0, 0) only. -/
theorem State.Validates.mem_invkeyTiles (hv : s.Validates (.invkey d a c)) {x : Nat × Nat} :
    x ∈ s.invkeyTiles a c ↔ (x.1 < s.tileRows a ∧ x.2 < s.tileCols a) ∧ (c = false → x = (0, 0)) := by
  obtain ⟨_, hb, _, hg, _⟩ := hv
  have first : 0 < s.tileRows a ∧ 0 < s.tileCols a := State.tiles_pos hb (hg a (List.mem_singleton.2 rfl))
  cases c with
  | false =>
    refine List.mem_singleton.trans ⟨?_, fun h => h.2 rfl⟩
    rintro rfl
    exact ⟨first, fun _ => rfl⟩
  | true => exact mem_blockOrder.trans (and_iff_left nofun).symm

/-- In a list in rising order, `find?` answers the entry that no smaller one precedes. -/
theorem find?_eq_some_of_pairwise {α : Type} {r : α → α → Prop} {f : α → Bool} {l : List α} {b : α}
    (hl : l.Pairwise r) (hb : b ∈ l) (hf : f b = true) (hmin : ∀ x ∈ l, r x b → f x = false) :
    l.find? f = some b := by
  induction l with
  | nil => cases hb
  | cons x xs ih =>
    obtain ⟨hx, hxs⟩ := List.pairwise_cons.1 hl
    rcases List.mem_cons.1 hb with rfl | hb
    · exact List.find?_cons_of_pos hf
    · rw [List.find?_cons_of_neg (by simp [hmin x List.mem_cons_self (hx b hb)])]
      exact ih hxs hb fun y hy => hmin y (List.mem_cons_of_mem x hy)

theorem State.firstSingular_eq_none_iff :
    s.firstSingular a c = none ↔ ∀ x ∈ s.invkeyTiles a c, (s.tileDet a x).toNat % 2 = 1 := by
  unfold State.firstSingular
  simp [List.find?_eq_none, isOdd_iff]

/-- The first singular tile is an examined one with an even determinant, the earlier ones being odd
(60_exceptions.md R327). -/
theorem State.firstSingular_eq_some {x : Nat × Nat} (hx : x ∈ s.invkeyTiles a c)
    (heven : (s.tileDet a x).toNat % 2 = 0)
    (hodd : ∀ y ∈ s.invkeyTiles a c, EarlierTile y x → (s.tileDet a y).toNat % 2 = 1) :
    s.firstSingular a c = some x := by
  refine find?_eq_some_of_pairwise (s.invkeyTiles_pairwise a c) hx ?_ fun y hy hyx => ?_
  · simp [isOdd, heven]
  · simp [isOdd, hodd y hy hyx]

/-! ### What INVKEY commits (45_inverter.md R284) -/

/-- The tile of the key whose inverse INVKEY stores in tile (p, q): that tile with C = 1, tile (0, 0) with C = 0. -/
def State.invertedTile (s : State) (a : Nat) (c : Bool) (p q : Nat) : Mat :=
  if c then s.tile a p q else s.tile a 0 0

/-- `s` after an INVKEY has committed its inverses. -/
def State.inversesCommitted (s : State) (d a : Nat) (c : Bool) : State :=
  (s.writeResult (resultWord true (s.tileDet a (0, 0)))).commitGrid d (s.dim a) (s.invkeyBytes a c)

/-- INVKEY that finds no singular tile commits, and RESULT is the determinant of tile (0, 0) with INV = 1. -/
theorem exec_invkey_of_invertible (hv : s.Validates (.invkey d a c)) (h : s.firstSingular a c = none) :
    exec (.invkey d a c) s = .next (s.inversesCommitted d a c) :=
  execInvkey_of_invertible hv h

theorem State.inversesCommitted_finishedFrom (s : State) (d a : Nat) (c : Bool) :
    (s.inversesCommitted d a c).FinishedFrom s :=
  State.commitGrid_finishedFrom (s := s.writeResult _) d _ _

@[simp] theorem State.inversesCommitted_n (s : State) (d a : Nat) (c : Bool) :
    (s.inversesCommitted d a c).n = s.n := rfl

theorem State.inversesCommitted_result (s : State) (d a : Nat) (c : Bool) :
    (s.inversesCommitted d a c).result.toNat = 256 + (detMod s.n (s.tile a 0 0)).toNat :=
  (toNat_resultWord true _).trans (Nat.add_comm _ _)

/-- D takes the key's dimensions and becomes written. -/
theorem State.inversesCommitted_destination (hl : s.cfg.Legal) (hd : d < s.cfg.nbuf) :
    (s.inversesCommitted d a c).dim d = s.dim a ∧ (s.inversesCommitted d a c).isValid d = true :=
  State.commitGrid_destination (s := s.writeResult _) hl hd _ _

theorem State.inversesCommitted_tiles (hl : s.cfg.Legal) (hd : d < s.cfg.nbuf) :
    (s.inversesCommitted d a c).HoldsTiles d fun p q => invMod s.n (s.invertedTile a c p q) :=
  State.commitGrid_tiles (s := s.writeResult _) hl hd (s.dim a) _

/-- INVKEY whose examined tiles all have an odd determinant completes, with its inverses in the destination. -/
theorem exec_invkey_commits (hl : s.cfg.Legal) (hv : s.Validates (.invkey d a c))
    (hodd : ∀ x ∈ s.invkeyTiles a c, (s.tileDet a x).toNat % 2 = 1) :
    ∃ t, exec (.invkey d a c) s = .next t ∧ t.FinishedFrom s ∧ t.attempts = s.attempts ∧
      t.result.toNat = 256 + (detMod s.n (s.tile a 0 0)).toNat ∧
      t.dim d = s.dim a ∧ t.isValid d = true ∧ t.HoldsTiles d fun p q => invMod s.n (s.invertedTile a c p q) := by
  have hd : d < s.cfg.nbuf := (hv.fits rfl).1
  obtain ⟨hdim, hvalid⟩ := State.inversesCommitted_destination (a := a) (c := c) hl hd
  exact ⟨_, exec_invkey_of_invertible hv (State.firstSingular_eq_none_iff.2 hodd),
    s.inversesCommitted_finishedFrom d a c, rfl, s.inversesCommitted_result d a c, hdim, hvalid,
    State.inversesCommitted_tiles hl hd⟩

/-- Settles O16: with C = 0 tile (0, 0) is the one tile examined. -/
theorem invkeyCopiesFirstInverse : Obligations.InvkeyCopiesFirstInverse := by
  intro d a s hl hv hodd
  refine exec_invkey_commits hl hv fun x hx => ?_
  obtain rfl : x = (0, 0) := (hv.mem_invkeyTiles.1 hx).2 rfl
  exact hodd

/-- Settles O17: with C = 1 the tiles examined are those of the grid. -/
theorem invkeyInvertsEveryTile : Obligations.InvkeyInvertsEveryTile := by
  intro d a s hl hv hodd
  refine exec_invkey_commits hl hv fun x hx => ?_
  obtain ⟨⟨hp, hq⟩, _⟩ := hv.mem_invkeyTiles.1 hx
  exact hodd x.1 x.2 hp hq

/-! ### INVKEY at a singular tile (45_inverter.md R284, 60_exceptions.md R327) -/

/-- INVKEY that finds a singular tile writes RESULT with INV = 0 and fails at that tile. -/
theorem exec_invkey_of_singular {x : Nat × Nat} (hv : s.Validates (.invkey d a c))
    (h : s.firstSingular a c = some x) :
    exec (.invkey d a c) s
      = .next { s.failedWith .nonInvertible (tileWord x.1 x.2) with result := resultWord false (s.tileDet a x) } := by
  refine (execInvkey_of_singular hv h).trans ?_
  rw [State.raiseErr_eq_failedWith (by decide) fun hn => absurd hn (by decide)]
  rfl

/-- Settles O18: the tile is examined, and so are, of the earlier ones, only odd ones. -/
theorem invkeyNamesFirstSingularTile : Obligations.InvkeyNamesFirstSingularTile := by
  intro d a p q c s hv hp hq hfirst heven hodd
  have examined : (p, q) ∈ s.invkeyTiles a c :=
    hv.mem_invkeyTiles.2 ⟨⟨hp, hq⟩, fun hc => Prod.ext (hfirst hc).1 (hfirst hc).2⟩
  have singular : s.firstSingular a c = some (p, q) :=
    State.firstSingular_eq_some examined heven fun y hy hyx => by
      obtain ⟨⟨hp', hq'⟩, _⟩ := hv.mem_invkeyTiles.1 hy
      exact hodd y.1 y.2 hp' hq' hyx
  exact ⟨_, exec_invkey_of_singular hv singular, rfl, highHalf_tileWord (hp.trans (s.tileRows_lt a)),
    lowHalf_tileWord (hq.trans (s.tileCols_lt a)), toNat_resultWord false _⟩

/-! ### The inversion law (45_inverter.md R285) -/

/-- A validated command has a block size (60_exceptions.md R323). -/
theorem State.Validates.block_pos {i : Instr} (hv : s.Validates i) : 1 ≤ s.n := by
  obtain ⟨_, ⟨hn, _⟩, _⟩ := hv
  exact Nat.one_le_iff_ne_zero.2 hn

/-- An INVKEY that completes without error has passed validation, found no singular tile and committed. -/
theorem exec_invkey_success (h : exec (.invkey d a c) s = .next t) (he : t.err = .none) :
    s.Validates (.invkey d a c) ∧ s.firstSingular a c = none ∧ t = s.inversesCommitted d a c := by
  rcases execInvkey_cases h with ⟨e, hfail, rfl⟩ | ⟨_, x, _, rfl⟩ | ⟨hpass, hnone, ht⟩
  · exact absurd he (State.firstError_names hfail).1
  · cases he
  · exact ⟨(invkeyChecks_pass d a c).1 hpass, hnone, ht⟩

/-- The destination has the key's tiles. -/
theorem State.inversesCommitted_tileRows_tileCols (hl : s.cfg.Legal) (hd : d < s.cfg.nbuf) :
    (s.inversesCommitted d a c).tileRows d = s.tileRows a ∧
      (s.inversesCommitted d a c).tileCols d = s.tileCols a := by
  have dim : (s.inversesCommitted d a c).dim d = s.dim a := (State.inversesCommitted_destination hl hd).1
  unfold State.tileRows State.tileCols State.height State.width
  rw [dim, State.inversesCommitted_n]
  exact ⟨rfl, rfl⟩

/-- The tile whose inverse INVKEY stores at (p, q) is an examined one, so its determinant is odd. -/
theorem State.invertedTile_odd (hv : s.Validates (.invkey d a c)) (h : s.firstSingular a c = none)
    (hp : p < s.tileRows a) (hq : q < s.tileCols a) :
    (detMod s.n (s.invertedTile a c p q)).toNat % 2 = 1 := by
  cases c with
  | false => exact (isOdd_iff _).1 (State.firstTile_odd hv h)
  | true => exact State.firstSingular_eq_none_iff.1 h (p, q) (hv.mem_invkeyTiles.2 ⟨⟨hp, hq⟩, nofun⟩)

/-- With C = 1, or a key whose tiles all equal its tile (0, 0), the inverted tile equals the key's tile at its place. -/
theorem State.invertedTile_matEq
    (hsame : c = false → ∀ p q, p < s.tileRows a → q < s.tileCols a → MatEq s.n (s.tile a p q) (s.tile a 0 0))
    (hp : p < s.tileRows a) (hq : q < s.tileCols a) : MatEq s.n (s.invertedTile a c p q) (s.tile a p q) := by
  cases c with
  | false => exact fun i j hi hj => (hsame rfl p q hp hq i j hi hj).symm
  | true => exact fun _ _ _ _ => rfl

/-- Settles O40: each tile of the result is the inverse of a tile that equals the key's tile at its place. -/
theorem invkeyResultInverts : Obligations.InvkeyResultInverts := by
  intro d a c s t hl h he hsame p q hp hq
  obtain ⟨hv, hnone, rfl⟩ := exec_invkey_success h he
  have hd : d < s.cfg.nbuf := (hv.fits rfl).1
  have hn : 1 ≤ s.n := hv.block_pos
  obtain ⟨hrows, hcols⟩ := State.inversesCommitted_tileRows_tileCols (a := a) (c := c) hl hd
  have stored := (State.inversesCommitted_tiles (c := c) hl hd p q (hrows ▸ hp) (hcols ▸ hq)).matEq
  have same := State.invertedTile_matEq hsame hp hq
  have hodd : (detMod s.n (s.tile a p q)).toNat % 2 = 1 := detMod_congr same ▸ State.invertedTile_odd hv hnone hp hq
  have result : residues s.n ((s.inversesCommitted d a c).tile d p q) = residues s.n (invMod s.n (s.tile a p q)) :=
    ((residues_eq_iff _ _ _).2 stored).trans ((residues_eq_iff _ _ _).2 (invMod_congr same))
  rw [mulMod_eq_identity_iff, mulMod_eq_identity_iff, result, ← mulMod_eq_identity_iff, ← mulMod_eq_identity_iff]
  exact ⟨invMod_mul hn hodd, mul_invMod hn hodd⟩

end Inverter

end Sys2Proof.Machine


/-! The statements of 46_protocols.md: decryption undoes encryption. -/

namespace Sys2Proof.Machine

section Protocols

variable {s t u : State} {i : Instr} {a b d x y p q : Nat}

/-! ### Buffers of one shape -/

/-- Buffer `b` of `t` is cut into the same tiles as buffer `x` of `s` (40_command_common.md R164). -/
structure State.SameShape (t : State) (b : Nat) (s : State) (x : Nat) : Prop where
  cfg : t.cfg = s.cfg
  n : t.n = s.n
  width : t.width b = s.width x
  height : t.height b = s.height x

theorem State.SameShape.trans (h : u.SameShape y t b) (h' : t.SameShape b s x) : u.SameShape y s x :=
  ⟨h.cfg.trans h'.cfg, h.n.trans h'.n, h.width.trans h'.width, h.height.trans h'.height⟩

theorem State.SameDims.sameShape (h : s.SameDims a b) : s.SameShape a s b := ⟨rfl, rfl, h.1, h.2⟩

theorem State.sameShape_of_dim (hc : t.cfg = s.cfg) (hn : t.n = s.n) (hd : t.dim b = s.dim x) : t.SameShape b s x :=
  ⟨hc, hn, congrArg lowHalf hd, congrArg highHalf hd⟩

theorem State.SameShape.tileRows (h : t.SameShape b s x) : t.tileRows b = s.tileRows x := by
  unfold State.tileRows
  rw [h.height, h.n]

theorem State.SameShape.tileCols (h : t.SameShape b s x) : t.tileCols b = s.tileCols x := by
  unfold State.tileCols
  rw [h.width, h.n]

/-- A committed grid has the shape of the buffer whose descriptor it takes. -/
theorem State.commitGrid_sameShape (hl : s.cfg.Legal) (hd : d < s.cfg.nbuf) (a : Nat) (bytes : List Byte) :
    (s.commitGrid d (s.dim a) bytes).SameShape d s a :=
  State.sameShape_of_dim rfl rfl (State.commitGrid_destination hl hd _ _).1

/-- A command keeps the shape of every buffer but its destination. -/
theorem exec_other_sameShape (he : exec i s = .next t) (hd : destination i = some d) (hne : b ≠ d) :
    t.SameShape b s b := by
  obtain ⟨w, _, hends⟩ := exec_ends he
  have sameN : t.n = s.n := (congrArg State.n hends.frame).trans rfl
  exact State.sameShape_of_dim (exec_cfg he) sameN ((hends.buffers hd).1 b hne).1

/-! ### A buffer that stores the grid of another -/

/-- Buffer `b` of `t` stores the grid that buffer `x` of `s` reads as. -/
structure State.StoresGrid (t : State) (b : Nat) (s : State) (x : Nat) : Prop extends t.SameShape b s x where
  fits : s.width x * s.height x ≤ s.cfg.bufBytes
  bytes : ∀ o, o < s.width x * s.height x → t.mem.read (bufAddr b o) = some (s.readBuf x o)

/-- A written byte is stored as what it reads as (10_state.md R56). -/
theorem State.GridWritten.read (h : s.GridWritten b) {o : Nat} (ho : o < s.width b * s.height b) :
    s.mem.read (bufAddr b o) = some (s.readBuf b o) := by
  obtain ⟨v, hv⟩ := Option.isSome_iff_exists.1 (h o ho)
  rw [State.readBuf_of_read hv, hv]

theorem State.GridWritten.storesGrid (h : s.GridWritten b) (hfit : s.width b * s.height b ≤ s.cfg.bufBytes) :
    s.StoresGrid b s b :=
  ⟨⟨rfl, rfl, rfl, rfl⟩, hfit, fun _ ho => h.read ho⟩

theorem State.StoresGrid.gridWritten (h : t.StoresGrid b s x) : t.GridWritten b := by
  intro o ho
  rw [h.width, h.height] at ho
  rw [h.bytes o ho]
  rfl

/-- The stored tiles are those of the grid. -/
theorem State.StoresGrid.tile (h : t.StoresGrid b s x) (hp : p < s.tileRows x) (hq : q < s.tileCols x) :
    MatEq s.n (t.tile b p q) (s.tile x p q) := by
  intro k j hk hj
  obtain ⟨_, _, ho⟩ := tile_offset_lt hp hq hk hj
  unfold State.tile State.pix
  rw [h.n, h.width]
  exact State.readBuf_of_read (h.bytes _ ho)

/-- A validated command keeps what is stored in every buffer but its destination: the bytes it writes and those kept
lie in buffers that do not overlap (20_memory.md R81). -/
theorem State.StoresGrid.exec (h : t.StoresGrid b s x) (hl : s.cfg.Legal) (hv : t.Validates i)
    (he : exec i t = .next u) (hd : destination i = some d) (hne : b ≠ d) : u.StoresGrid b s x := by
  refine ⟨(exec_other_sameShape he hd hne).trans h.toSameShape, h.fits, fun o ho => ?_⟩
  obtain ⟨_, _, hends⟩ := exec_ends he
  have stored : storedCount t i ≤ s.cfg.bufBytes := h.cfg ▸ (hv.fits hd).2
  have stride : s.cfg.bufBytes ≤ 0x00100000 := Config.Legal.bufBytes_le hl
  have kept := h.fits
  refine ((hends.buffers hd).2 _ fun o' ho' heq => hne ?_).trans (h.bytes o ho)
  exact (bufAddr_inj (by omega) (by omega) heq).1

/-- The grid of a buffer's own tiles is what the buffer reads as. -/
theorem State.gridBytes_own_tiles (s : State) (x : Nat) {o : Nat} (ho : o < s.width x * s.height x) :
    (gridBytes s.n (s.width x) (s.height x) (s.tile x))[o]? = some (s.readBuf x o) := by
  rw [gridBytes_getElem? _ ho, State.tile_div_mod, State.pix_div_mod]

/-! ### The mask layer (44_mask.md R264) -/

/-- Masking a channel and unmasking it stores the channel. -/
theorem unmask_storesGrid {e m : Nat} {s1 s2 : State} (hl : s.cfg.Legal) (hm : s.GridWritten m) (hne : e ≠ m)
    (h1 : exec (.xor e m x) s = .next s1) (e1 : s1.err = .none)
    (h2 : exec (.xor d m e) s1 = .next s2) (e2 : s2.err = .none) : s2.StoresGrid d s x := by
  obtain ⟨hv1, -⟩ := exec_xor_success h1 e1
  obtain ⟨hv2, committed⟩ := exec_xor_success h2 e2
  have maskKept : s1.SameShape m s m := exec_other_sameShape h1 rfl hne.symm
  have unmasked : s2.SameShape d s1 m := by
    rw [committed]
    exact State.commitGrid_sameShape (maskKept.cfg ▸ hl) (hv2.fits rfl).1 _ _
  exact ⟨unmasked.trans (maskKept.trans hv1.xor_sameDims.sameShape), hv1.grid_le (by simp [gridBuffers]),
    maskTwiceIsIdentity e m x d s s1 s2 hl hm hne h1 e1 h2 e2⟩

/-! ### The matrix layer (43_block_multiply.md R244, 45_inverter.md R285) -/

/-- An MMUL that completes without error has passed validation and commits its grid. -/
theorem exec_mmul_success (h : exec (.mmul d a b) s = .next t) (he : t.err = .none) :
    s.Validates (.mmul d a b) ∧ t = s.commitGrid d (s.dim b) (s.mmulBytes a b) := by
  rcases execMmul_cases h with ⟨e, hfail, rfl⟩ | ⟨hpass, ht⟩
  · exact absurd he (State.firstError_names hfail).1
  · exact ⟨(mmulChecks_pass d a b).1 hpass, ht⟩

/-- The sources of a validated MMUL have the same dimensions (40_command_common.md R169). -/
theorem State.Validates.mmul_sameDims (h : s.Validates (.mmul d a b)) : s.SameDims a b := by
  obtain ⟨_, _, _, _, same⟩ := h
  exact same

theorem exec_mmul_sameShape (hl : s.cfg.Legal) (h : exec (.mmul d a b) s = .next t) (he : t.err = .none) :
    t.SameShape d s b := by
  obtain ⟨hv, rfl⟩ := exec_mmul_success h he
  exact State.commitGrid_sameShape hl (hv.fits rfl).1 _ _

/-- The tiles of an MMUL's destination are the products. -/
theorem exec_mmul_tile (hl : s.cfg.Legal) (h : exec (.mmul d a b) s = .next t) (he : t.err = .none)
    (hp : p < s.tileRows b) (hq : q < s.tileCols b) :
    MatEq s.n (t.tile d p q) (mulMod s.n (s.tile a p q) (s.tile b p q)) := by
  have shape := exec_mmul_sameShape hl h he
  obtain ⟨hv, rfl⟩ := exec_mmul_success h he
  exact (State.commitGrid_tiles hl (hv.fits rfl).1 (s.dim b) _ p q (shape.tileRows ▸ hp) (shape.tileCols ▸ hq)).matEq

/-- An MMUL whose products are the tiles of a grid of the shape of its channel stores that grid. -/
theorem exec_mmul_storesGrid (hl : t.cfg.Legal) (h : exec (.mmul d a b) t = .next u) (he : u.err = .none)
    (shape : t.SameShape b s x)
    (tiles : ∀ p q, p < s.tileRows x → q < s.tileCols x →
      MatEq s.n (mulMod s.n (t.tile a p q) (t.tile b p q)) (s.tile x p q)) : u.StoresGrid d s x := by
  have committed := exec_mmul_sameShape hl h he
  obtain ⟨hv, rfl⟩ := exec_mmul_success h he
  obtain ⟨_, _, _, grids, _⟩ := hv
  obtain ⟨_, _, fits, hw, hh⟩ := grids b (by simp [gridBuffers])
  rw [shape.width, shape.height, shape.cfg] at fits
  rw [shape.width, shape.n] at hw
  rw [shape.height, shape.n] at hh
  have products : t.mmulBytes a b = gridBytes s.n (s.width x) (s.height x) (s.tile x) := by
    unfold State.mmulBytes
    rw [shape.n, shape.width, shape.height]
    exact gridBytes_congr hw hh tiles
  refine ⟨committed.trans shape, fits, fun o ho => ?_⟩
  rw [products, State.commitGrid_byte _ _ _ (by rwa [length_gridBytes]), State.gridBytes_own_tiles s x ho]

theorem MatEq.refl {n : Nat} (m : Mat) : MatEq n m m := fun _ _ _ _ => rfl

theorem MatEq.symm {n : Nat} {m m' : Mat} (h : MatEq n m m') : MatEq n m' m :=
  fun k j hk hj => (h k j hk hj).symm

theorem MatEq.trans {n : Nat} {m m' m'' : Mat} (h : MatEq n m m') (h' : MatEq n m' m'') : MatEq n m m'' :=
  fun k j hk hj => (h k j hk hj).trans (h' k j hk hj)

/-- A left inverse of the key cancels the key from a product. -/
theorem mulMod_cancel {n : Nat} {k y z m : Mat} (hinv : MatEq n (mulMod n y k) identityMat)
    (hz : MatEq n z (mulMod n k m)) : MatEq n (mulMod n y z) m := by
  rw [← residues_eq_iff] at hz ⊢
  calc residues n (mulMod n y z)
      = residues n y * (residues n k * residues n m) := by rw [residues_mulMod, hz, residues_mulMod]
    _ = residues n y * residues n k * residues n m := (Matrix.mul_assoc _ _ _).symm
    _ = residues n m := by rw [mulMod_eq_identity_iff.1 hinv, Matrix.one_mul]

/-- INVKEY of a stored copy of a key gives left inverses of the key's tiles. -/
theorem exec_invkey_inverts_stored {ki k : Nat} {c : Bool} (hl : s.cfg.Legal) (key : t.StoresGrid k s x)
    (h : exec (.invkey ki k c) t = .next u) (he : u.err = .none)
    (hsame : c = false → ∀ i j, i < s.tileRows x → j < s.tileCols x → MatEq s.n (s.tile x i j) (s.tile x 0 0))
    (hp : p < s.tileRows x) (hq : q < s.tileCols x) :
    MatEq s.n (mulMod s.n (u.tile ki p q) (s.tile x p q)) identityMat := by
  have sameStored : c = false → ∀ i j, i < t.tileRows k → j < t.tileCols k →
      MatEq t.n (t.tile k i j) (t.tile k 0 0) := by
    intro hc i j hi hj
    rw [key.tileRows] at hi
    rw [key.tileCols] at hj
    rw [key.n]
    exact ((key.tile hi hj).trans (hsame hc i j hi hj)).trans (key.tile (by omega) (by omega)).symm
  have inverse := (invkeyResultInverts ki k c t u (key.cfg ▸ hl) h he sameStored p q
    (key.tileRows ▸ hp) (key.tileCols ▸ hq)).1
  rw [key.n] at inverse
  exact (mulMod_congr (.refl _) (key.tile hp hq)).symm.trans inverse

/-- Multiplying a channel by a key, and a copy of the product by the inverse of a copy of the key, stores the
channel. -/
theorem inverseMultiply_storesGrid {k c' ki r : Nat} {c : Bool} {s1 s3 s4 s5 : State} (hl : s.cfg.Legal)
    (h1 : exec (.mmul d k x) s = .next s1) (e1 : s1.err = .none)
    (hsame : c = false → ∀ i j, i < s.tileRows k → j < s.tileCols k → MatEq s.n (s.tile k i j) (s.tile k 0 0))
    (key : s3.StoresGrid k s k) (h4 : exec (.invkey ki k c) s3 = .next s4) (e4 : s4.err = .none)
    (copy : s4.StoresGrid c' s1 d) (h5 : exec (.mmul r ki c') s4 = .next s5) (e5 : s5.err = .none) :
    s5.StoresGrid r s x := by
  have product : s1.SameShape d s x := exec_mmul_sameShape hl h1 e1
  have channel : s4.SameShape c' s x := copy.toSameShape.trans product
  have keyShape : s.SameShape k s x := (exec_mmul_success h1 e1).1.mmul_sameDims.sameShape
  refine exec_mmul_storesGrid (channel.cfg ▸ hl) h5 e5 channel fun i j hi hj => ?_
  have inverse := exec_invkey_inverts_stored hl key h4 e4 hsame (keyShape.tileRows ▸ hi) (keyShape.tileCols ▸ hj)
  have copied := copy.tile (product.tileRows ▸ hi) (product.tileCols ▸ hj)
  rw [product.n] at copied
  exact mulMod_cancel inverse (copied.trans (exec_mmul_tile hl h1 e1 hi hj))

/-! ### The whole protocol (46_protocols.md R303) -/

/-- Settles O42: the mask survives the first MMUL and the key everything up to INVKEY, so unmasking stores the product
again and the inverse cancels the key from it. -/
theorem decryptionUndoesEncryption : Obligations.DecryptionUndoesEncryption := by
  intro k p m t e u ki r c s s1 s2 s3 s4 s5 hinv distinct hk hp hm hsame h1 e1 h2 e2 h3 e3 h4 e4 h5 e5 o ho
  obtain ⟨hkt, hke, hku, hmt, hem, huki⟩ : k ≠ t ∧ k ≠ e ∧ k ≠ u ∧ m ≠ t ∧ e ≠ m ∧ u ≠ ki := by
    simp only [List.nodup_cons, List.mem_cons, not_or] at distinct
    tauto
  have hl := hinv.config
  have hl1 : s1.cfg.Legal := exec_cfg h1 ▸ hl
  obtain ⟨hv1, -⟩ := exec_mmul_success h1 e1
  obtain ⟨hv2, -⟩ := exec_xor_success h2 e2
  obtain ⟨hv3, -⟩ := exec_xor_success h3 e3
  obtain ⟨hv4, -, -⟩ := exec_invkey_success h4 e4
  have mask : s1.StoresGrid m s m := by
    have kept := exec_other_sameShape h1 rfl hmt
    have fits := hv2.grid_le (b := m) (by simp [gridBuffers])
    rw [kept.width, kept.height, kept.cfg] at fits
    exact (hm.storesGrid fits).exec hl hv1 h1 rfl hmt
  have key : s3.StoresGrid k s k := by
    have key0 := hk.storesGrid (hv1.grid_le (by simp [gridBuffers]))
    have key1 : s1.StoresGrid k s k := key0.exec hl hv1 h1 rfl hkt
    have key2 : s2.StoresGrid k s k := key1.exec hl hv2 h2 rfl hke
    exact key2.exec hl hv3 h3 rfl hku
  have unmasked : s4.StoresGrid u s1 t :=
    (unmask_storesGrid hl1 mask.gridWritten hem h2 e2 h3 e3).exec hl1 hv4 h4 rfl huki
  have recovered : s5.StoresGrid r s p := inverseMultiply_storesGrid hl h1 e1 hsame key h4 e4 unmasked h5 e5
  exact (recovered.bytes o ho).trans (hp.read ho).symm

end Protocols

end Sys2Proof.Machine


/-! The statements of 60_exceptions.md: the order of the checks, and what an error leaves unchanged. -/

namespace Sys2Proof.Machine

section CheckOrder

variable {s : State} {i : Instr} {k : Checks} {e : ErrCode}

/-! ### The first check that fails (60_exceptions.md R329) -/

theorem State.firstError_of_badBuffer (h : ∃ b ∈ k.used, s.cfg.nbuf ≤ b) : s.firstError k = some .badBuffer :=
  if_pos (by simpa using h)

/-- With every used buffer present the checks go on from BAD_BLOCK. -/
theorem State.firstError_of_used (h : ∀ b ∈ k.used, b < s.cfg.nbuf) :
    s.firstError k = if ¬ s.BlockLegal then some .badBlock
      else if k.sources.any fun b => !s.isValid b then some .unwritten
      else if (k.grids.any fun b => !decide (s.ValidDims b)) || !s.sameOk k.same then some .dimMismatch
      else none :=
  if_neg (by simpa using h)

theorem State.firstError_of_badBlock (hu : ∀ b ∈ k.used, b < s.cfg.nbuf) (h : ¬ s.BlockLegal) :
    s.firstError k = some .badBlock := by
  rw [State.firstError_of_used hu, if_pos h]

theorem State.firstError_of_unwritten (hu : ∀ b ∈ k.used, b < s.cfg.nbuf) (hb : s.BlockLegal)
    (h : ∃ b ∈ k.sources, s.isValid b = false) : s.firstError k = some .unwritten := by
  have unwritten : (k.sources.any fun b => !s.isValid b) = true := by simpa using h
  rw [State.firstError_of_used hu, if_neg (not_not_intro hb), if_pos unwritten]

/-- The descriptor checks come last, so when those before them pass and they do not, the code is theirs. -/
theorem State.firstError_of_dimMismatch (hu : ∀ b ∈ k.used, b < s.cfg.nbuf) (hb : s.BlockLegal)
    (hv : ∀ b ∈ k.sources, s.isValid b = true)
    (h : ¬ ((∀ b ∈ k.grids, s.ValidDims b) ∧ s.sameOk k.same = true)) : s.firstError k = some .dimMismatch := by
  have written : ¬ (k.sources.any fun b => !s.isValid b) = true := by simpa using hv
  have fails : s.firstError k ≠ none := fun hnone => h ((State.firstError_eq_none_iff k).1 hnone).2.2.2
  rw [State.firstError_of_used hu, if_neg (not_not_intro hb), if_neg written] at fails ⊢
  exact if_pos (by_contra fun pass => fails (if_neg pass))

/-! ### Each command runs the checks of its row (60_exceptions.md R321, R322, R325) -/

/-- The two sources that must have the same dimensions. -/
def sameSources : Instr → Option (Nat × Nat)
  | .mmul _ a b | .xor _ a b => some (a, b)
  | .nop | .det _ | .invkey _ _ _ | .genkey _ _ | .tilekey _ _ | .rand _ => none

/-- The checks of the command's row, read off the lists of Safety.lean. -/
def rowChecks (i : Instr) : Checks := ⟨usedBuffers i, sourceBuffers i, gridBuffers i, sameSources i⟩

theorem State.dimsPass_iff :
    s.DimsPass i ↔ (∀ b ∈ gridBuffers i, s.ValidDims b) ∧ s.sameOk (sameSources i) = true := by
  refine and_congr_right' ?_
  cases i with
  | mmul | xor => exact decide_eq_true_iff.symm
  | nop | det | invkey | genkey | tilekey | rand => exact (iff_true_intro rfl).symm

/-- A failing check of its row completes the command: NOP has none, and a GENKEY checks in its first step
(40_command_common.md R161). -/
theorem exec_of_firstError (hi : i ≠ .nop) (hg : (∃ d c, i = .genkey d c) → s.gen = none)
    (h : s.firstError (rowChecks i) = some e) : exec i s = .next (s.failedWith e 0) := by
  rw [← State.raiseErr_eq_failedWith (State.firstError_names h).1 fun _ => rfl]
  cases i with
  | nop => exact absurd rfl hi
  | mmul => exact execMmul_of_error h
  | det => exact execDet_of_error h
  | invkey => exact execInvkey_of_error h
  | genkey d c => exact (execGenkey_start (hg ⟨d, c, rfl⟩)).trans (State.validated_of_some h)
  | tilekey => exact execTilekey_of_error h
  | rand => exact execRand_of_error h
  | xor => exact execXor_of_error h

theorem exec_det_of_badTile {a : Nat} (hv : s.Validates (.det a)) (ht : ¬ s.TileInRange a) :
    exec (.det a) s = .next (s.failedWith .badTile 0) := by
  rw [← State.raiseErr_eq_failedWith (by decide) fun _ => rfl]
  exact (execDet_of_validates hv).trans (if_neg ht)

/-- Settles O9: each clause names the first check of the row that fails; BAD_TILE comes after the row's checks. -/
theorem checksRunInOrder : Obligations.ChecksRunInOrder := by
  intro i s hi hg
  refine ⟨fun absent => ?_, fun used block => ?_, fun used block unwritten => ?_, fun used block written dims => ?_, ?_⟩
  · exact exec_of_firstError hi hg (State.firstError_of_badBuffer absent)
  · exact exec_of_firstError hi hg (State.firstError_of_badBlock used block)
  · exact exec_of_firstError hi hg (State.firstError_of_unwritten used block unwritten)
  · exact exec_of_firstError hi hg (State.firstError_of_dimMismatch used block written (State.dimsPass_iff.not.1 dims))
  · rintro a rfl hv ht
    exact exec_det_of_badTile hv ht

end CheckOrder

section PreciseErrors

variable {s t : State} {i : Instr}

/-! ### How a command fails (60_exceptions.md R321 to R328, R330) -/

/-- The states that command `i`, started in `s`, can leave when it fails: with a code that names no tile, having
written nothing; as an INVKEY that has written RESULT; or as a GENKEY after its last attempt. -/
inductive FailureLeaves (i : Instr) (s : State) : State → Prop
  | check (e : ErrCode) : e.namesTile = false → FailureLeaves i s (s.failedWith e 0)
  | nonInvertible (d a : Nat) (c : Bool) (w info : Word) : i = .invkey d a c →
      FailureLeaves i s ((s.writeResult w).failedWith .nonInvertible info)
  | genExhausted (d : Nat) (c : Bool) (g : GenProgress) (info : Word) : i = .genkey d c →
      FailureLeaves i s ((s.afterLastAttempt g).failedWith .genExhausted info)

theorem FailureLeaves.of_firstError {k : Checks} {e : ErrCode} (h : s.firstError k = some e) :
    FailureLeaves i s (s.raiseErr e 0) := by
  obtain ⟨he, hn⟩ := State.firstError_names h
  rw [State.raiseErr_eq_failedWith he fun _ => rfl]
  exact .check e hn

/-- A command that commits once its checks pass fails only in its checks. -/
theorem FailureLeaves.of_commits {k : Checks} {u : State} {d : Nat} {dim : Word} {bytes : List Byte} {P : Prop}
    (h : (∃ e, s.firstError k = some e ∧ t = s.raiseErr e 0) ∨ P ∧ t = u.commitGrid d dim bytes)
    (he : t.err ≠ .none) : FailureLeaves i s t := by
  rcases h with ⟨e, hfail, rfl⟩ | ⟨_, rfl⟩
  · exact .of_firstError hfail
  · exact absurd rfl he

/-- An attempt that completes GENKEY with an error exhausts the search (42_key_tiler.md R216). -/
theorem FailureLeaves.of_genkeyAttempt {d : Nat} {c : Bool} {g : GenProgress} (hb : s.phase = .busy)
    (hi : (s.genkeyAttempt d c g).phase = .idle) (he : (s.genkeyAttempt d c g).err ≠ .none) :
    FailureLeaves (.genkey d c) s (s.genkeyAttempt d c g) := by
  have goesOn : ∀ g', s.genkeyAttempt d c g ≠ (s.afterDraws (s.n * s.n)).withGen g' := by
    intro g' h
    rw [h] at hi
    exact absurd (hb.symm.trans hi) (by decide)
  rcases s.genkeyAttempt_cases d c g with ⟨_, _, h⟩ | ⟨_, _, h⟩ | ⟨_, _, h⟩ | ⟨_, _, h⟩
  · rw [h] at he
    exact absurd rfl he
  · exact absurd h (goesOn _)
  · rw [h, State.raiseErr_eq_failedWith (by decide) fun hn => absurd hn (by decide)]
    exact .genExhausted d c g _ rfl
  · exact absurd h (goesOn _)

/-- Every completion with an error leaves one of these states: a commit and a `complete()` have the code NONE, and a
search that goes on is no completion. -/
theorem exec_failure (hb : s.phase = .busy) (h : exec i s = .next t) (hi : t.phase = .idle) (he : t.err ≠ .none) :
    FailureLeaves i s t := by
  cases i with
  | nop =>
    injection h with h; subst h
    exact absurd rfl he
  | mmul => exact .of_commits (execMmul_cases h) he
  | det =>
    rcases execDet_cases h with ⟨e, hfail, rfl⟩ | ⟨_, _, rfl⟩ | ⟨_, _, rfl⟩
    · exact .of_firstError hfail
    · rw [State.raiseErr_eq_failedWith (by decide) fun _ => rfl]
      exact .check .badTile rfl
    · exact absurd rfl he
  | invkey d a c =>
    rcases execInvkey_cases h with ⟨e, hfail, rfl⟩ | ⟨_, x, _, rfl⟩ | ⟨_, _, rfl⟩
    · exact .of_firstError hfail
    · rw [State.raiseErr_eq_failedWith (by decide) fun hn => absurd hn (by decide)]
      exact .nonInvertible d a c _ _ rfl
    · exact absurd rfl he
  | genkey d c =>
    rcases execGenkey_cases h with ⟨_, e, hfail, rfl⟩ | ⟨_, _, rfl⟩ | ⟨g, _, rfl⟩
    · exact .of_firstError hfail
    · exact absurd (hb.symm.trans hi) (by decide)
    · exact .of_genkeyAttempt hb hi he
  | tilekey => exact .of_commits (execTilekey_cases h) he
  | rand => exact .of_commits (execRand_cases h) he
  | xor => exact .of_commits (execXor_cases h) he

/-- Settles O10: only the two failures that name a tile come after a write, and each is one command's. -/
theorem errorsArePrecise : Obligations.ErrorsArePrecise := by
  intro i s t hb h hi he
  cases exec_failure hb h hi he with
  | check e hn =>
    have other : ∀ e' : ErrCode, e'.namesTile = true → e ≠ e' := by
      rintro e' hn' rfl
      exact absurd (hn.symm.trans hn') (by decide)
    exact ⟨rfl, fun _ => rfl, fun h => absurd h (other _ rfl), fun _ => ⟨rfl, rfl, rfl⟩,
      fun h => absurd h (other _ rfl), fun _ => rfl⟩
  | nonInvertible d a c w info hinv =>
    exact ⟨rfl, fun h => absurd rfl h, fun _ => ⟨d, a, c, hinv⟩, fun _ => ⟨rfl, rfl, rfl⟩, nofun, nofun⟩
  | genExhausted d c g info hgen =>
    exact ⟨rfl, fun _ => rfl, nofun, fun h => absurd rfl h, fun _ => ⟨d, c, hgen⟩, nofun⟩

end PreciseErrors

end Sys2Proof.Machine


/-! The statements of 70_reset_and_hazards.md: the soft reset, and that the machine never stops. -/

namespace Sys2Proof.Machine

section SoftReset

/-! ### The soft reset (70_reset_and_hazards.md R362) -/

/-- A write to CTRL with SRST = 1 is the soft reset, busy or not. -/
theorem State.memWrite_ctrl_softReset (s : State) {v : Word} (hv : v.getLsbD 2 = true) :
    s.memWrite 0x00000008 .word v = s.softReset := by
  have ctrl : RegisterAt 0x00000008 .ctrl := by decide
  exact (ctrl.memWrite s v).trans (if_pos hv)

/-- Settles O54: the write is the soft reset, after which IE = 0 holds the interrupt line low. -/
theorem softResetKeepsBuffers : Obligations.SoftResetKeepsBuffers := by
  intro s v hv
  rw [s.memWrite_ctrl_softReset hv]
  exact ⟨rfl, rfl⟩

end SoftReset

section Progress

variable {s t : State}

/-! ### Each agent's step is enabled (70_reset_and_hazards.md R371) -/

theorem step_of_none (h : s.mover = none) : step s = .next s := by
  unfold step; rw [h]

/-- The Host is stuck only by a transaction in reset, which the platform does not issue (70_reset_and_hazards.md
R360). -/
theorem State.WellDriven.hostStep_next (h : s.WellDriven) : ∃ t, hostStep s = .next t := by
  cases hin : s.inputs with
  | nil => exact ⟨s, by unfold hostStep; rw [hin]⟩
  | cons op rest =>
    rcases h with hr | hnone | ⟨level, rest', hlevel⟩
    · exact ⟨_, hostStep_transact hin hr⟩
    · exact nomatch hin.symm.trans hnone
    · exact ⟨s.transact (.rst level) rest', by unfold hostStep; rw [hlevel]⟩

/-- The Core is never stuck, and its step completes whatever word is latched, but a GENKEY (40_command_common.md
R163). -/
theorem coreStep_next (s : State) :
    ∃ t, coreStep s = .next t ∧ ((∀ d c, decode s.lcmd ≠ .ok (.genkey d c)) → t.phase = .idle) := by
  cases hd : decode s.lcmd with
  | ok i =>
    obtain ⟨t, he⟩ := exec_next i s
    obtain ⟨_, _, hends⟩ := exec_ends he
    exact ⟨t, (coreStep_of_ok hd).trans he,
      fun hi => (hends.completes fun d c hg => hi d c (congrArg Except.ok hg)).1⟩
  | error e => exact ⟨_, coreStep_of_error hd, fun _ => rfl⟩

/-- A step is nobody's, the Host's or the Core's, and each goes on. -/
theorem State.WellDriven.goesOn (h : s.WellDriven) : s.GoesOn := by
  cases hm : s.mover with
  | none => exact ⟨s, step_of_none hm⟩
  | some who =>
    cases who with
    | host =>
      obtain ⟨t, ht⟩ := State.WellDriven.hostStep_next (s := s.beginStep) h
      exact ⟨t, (step_of_host hm).trans ht⟩
    | core =>
      obtain ⟨t, ht, _⟩ := coreStep_next s.beginStep
      exact ⟨t, (step_of_core hm).trans ht⟩

/-! ### The Core's wait ends (70_reset_and_hazards.md R370) -/

/-- Asserting the reset input resets the machine; any other step of the Host leaves the input released. -/
theorem hostStep_idle_or_released (hr : s.rst = false) (h : hostStep s = .next t) :
    t.phase = .idle ∨ t.rst = false := by
  rcases hostStep_cases h with ⟨_, rfl⟩ | ⟨op, rest, _, rfl, _⟩
  · exact .inr hr
  cases op with
  | read addr size => exact .inr hr
  | write addr size v => exact .inr ((State.memWrite_outside addr size v).1.trans hr)
  | wait =>
    refine .inr ?_
    unfold State.transact
    dsimp only
    split <;> exact hr
  | rst level =>
    show ((s.withInputs rest).driveReset level).phase = .idle ∨ ((s.withInputs rest).driveReset level).rst = false
    unfold State.driveReset
    split
    · exact .inl rfl
    · exact .inr hr

theorem State.KeepsCommand.phase_lcmd (h : t.KeepsCommand s) : t.phase = s.phase ∧ t.lcmd = s.lcmd := by
  rw [show t = _ from h]
  exact ⟨rfl, rfl⟩

/-- A step of the Host while busy resets the machine, or keeps the command and brings the Core's step nearer. -/
theorem State.hostTurn_nearer (hb : s.phase = .busy) (hr : s.rst = false) (hm : s.mover = some .host) :
    ∃ t, step s = .next t ∧ t.waitBound < s.waitBound ∧
      (t.phase = .idle ∨ (t.phase = .busy ∧ t.rst = false ∧ t.lcmd = s.lcmd)) := by
  obtain ⟨t, hhost⟩ := State.WellDriven.hostStep_next (s := s.beginStep) (.inl hr)
  refine ⟨t, (step_of_host hm).trans hhost, ?_, ?_⟩
  · obtain ⟨hturns, hpatience, _⟩ := hostStep_turns hhost
    have nearer := State.waitBound_beginStep hb hm
    unfold State.waitBound at nearer ⊢
    rw [hturns, hpatience]
    exact nearer
  · rcases hostStep_idle_or_keepsCommand (s := s.beginStep) hb hhost with hidle | hkeep
    · exact .inl hidle
    · rcases hostStep_idle_or_released (s := s.beginStep) hr hhost with hidle | hreleased
      · exact .inl hidle
      · obtain ⟨hphase, hcmd⟩ := hkeep.phase_lcmd
        exact .inr ⟨hphase.trans hb, hreleased, hcmd⟩

/-- The Core's turn comes within the bound, unless the Host resets the machine first. -/
theorem State.coreTurn_within {s : State} (hb : s.phase = .busy) (hr : s.rst = false) :
    ∃ k, ∃ t : State, k ≤ s.waitBound ∧ Host.Core.run core k s = .next t ∧
      (t.phase = .idle ∨ (t.mover = some .core ∧ t.lcmd = s.lcmd)) := by
  rcases State.turn_cases hb with hturn | ⟨_, hm⟩
  · exact ⟨0, s, Nat.zero_le _, run_zero s, .inr ⟨(State.mover_core_iff hb).2 hturn, rfl⟩⟩
  · obtain ⟨t, hstep, hlt, hidle | ⟨hbusy, hreleased, hcmd⟩⟩ := State.hostTurn_nearer hb hr hm
    · exact ⟨1, t, Nat.one_le_of_lt hlt, run_succ hstep, .inl hidle⟩
    · obtain ⟨k, u, hk, hrun, hend⟩ := State.coreTurn_within hbusy hreleased
      rw [hcmd] at hend
      exact ⟨k + 1, u, hk.trans_lt hlt, (run_succ hstep).trans hrun, hend⟩
termination_by s.waitBound

/-- Every command but GENKEY ends: at a reset, or at the Core's next step. -/
theorem State.command_ends (hb : s.phase = .busy) (hr : s.rst = false)
    (hd : ∀ d c, decode s.lcmd ≠ .ok (.genkey d c)) :
    ∃ k, ∃ t : State, Host.Core.run core k s = .next t ∧ t.phase = .idle := by
  obtain ⟨k, t, _, hrun, hidle | ⟨hm, hcmd⟩⟩ := State.coreTurn_within hb hr
  · exact ⟨k, t, hrun, hidle⟩
  · obtain ⟨u, hu, hcompletes⟩ := coreStep_next t.beginStep
    have hstep : step t = .next u := (step_of_core hm).trans hu
    refine ⟨k + 1, u, (run_add hrun).trans (run_succ hstep), hcompletes ?_⟩
    show ∀ d c, decode t.lcmd ≠ .ok (.genkey d c)
    rw [hcmd]
    exact hd

/-- Settles O60: each agent's step is enabled, the Core's wait is bounded, and its step then ends the command. -/
theorem machineNeverStops : Obligations.MachineNeverStops :=
  ⟨fun _ h => h.goesOn, fun _ hb hr => State.coreTurn_within hb hr, fun _ hb hr hd => State.command_ends hb hr hd⟩

end Progress

end Sys2Proof.Machine
